-- ==== Sys2Proof/Word.lean ====
section
/-! DEFINITION. The widths of VPL-STSM: an 8-bit sample, a 16-bit ROM address or count, a 32-bit host word
(00_scope.md R6, 10_state.md R24). -/

namespace Sys2Proof

/-- One sample, one ROM byte, the PWM duty value (`DUTY_W` = 8, R6). -/
abbrev Byte := BitVec 8

/-- A ROM address, a length, `offset`, a playlist count or position (`ADDR_W` = `OFFSET_W` = 16, R6). -/
abbrev Half := BitVec 16

/-- A host register (R24). -/
abbrev Word := BitVec 32

/-- A mathematical integer stored into an 8-bit field (R8: the rules show that it fits). -/
abbrev byteOf (n : Nat) : Byte := BitVec.ofNat 8 n

/-- A mathematical integer stored into a 16-bit field (R8: the rules show that it fits). -/
abbrev halfOf (n : Nat) : Half := BitVec.ofNat 16 n

end Sys2Proof
end

