-- ==== Sys2Proof/Config.lean ====
section
/-! DEFINITION. What is fixed for the machine: the fixed parameters of 00_scope.md R6, the OPEN launch parameters, and the
free values (60_exceptions.md R94). A free value is an opaque constant without a body: no proof can see what it is. -/

namespace Sys2Proof

/-- `LEN_MAX`, the largest buffer length (R6, D5). -/
def Config.lenMax : Nat := 32767

/-- `PL_MAX`, the largest playlist count (R6, D5). -/
def Config.plMax : Nat := 65535

/-- A ROM address is below `2^ADDR_W` (R6). -/
def Config.addrSpace : Nat := 65536

/-- What a byte of the ROM that no cell lists reads as (log entry 1). DESIGN CHOICE. -/
def Config.unlistedByte : Byte := 0

/-- The OPEN parameters of R6 that are numbers. No rule may assume a value of any of them. `pwmFreqHz` and `blkBase` are
read by no rule (92_eei_decisions.md, Named OPEN parameters). -/
structure Params where
  /-- `ROM_SIZE`, 1 .. 2^16. -/
  romSize : Nat
  /-- `CLK_HZ`, at least 1. -/
  clkHz : Nat
  /-- `TICK_PERIOD_MAX`, at least 1. -/
  tickPeriodMax : Nat
  /-- `PWM_FREQ_HZ`. -/
  pwmFreqHz : Nat
  /-- `BLK_BASE`, where the platform places the register window. -/
  blkBase : Nat
deriving DecidableEq, Repr

/-- The address of the last ROM byte at launch: `ROM_SIZE - 1`, free (R6, log entry 2). -/
opaque Config.freeRomTop : Half

/-- `CLK_HZ - 1` at launch, free (R6, log entry 2). -/
opaque Config.freeClkPred : Nat

/-- `TICK_PERIOD_MAX - 1` at launch, free (R6, log entry 2). -/
opaque Config.freePeriodMaxPred : Nat

/-- `PWM_FREQ_HZ` at launch, free (R6, log entry 2). -/
opaque Config.freePwmFreqHz : Nat

/-- `BLK_BASE` at launch, free (R6, log entry 2). -/
opaque Config.freeBlkBase : Nat

/-- The launch parameters of the state after reset: each OPEN, inside the range R6 gives it, and otherwise free. -/
def Config.openParams : Params where
  romSize := Config.freeRomTop.toNat + 1
  clkHz := Config.freeClkPred + 1
  tickPeriodMax := Config.freePeriodMaxPred + 1
  pwmFreqHz := Config.freePwmFreqHz
  blkBase := Config.freeBlkBase

/-- The draw of `duty` at reset (R31, R94, D22): a free value (log entry 5). -/
opaque Config.resetDuty : Byte

/-- The draw of `offset` at a STOP with `act = none` (R86, R94, D20): a free value for each draw (log entry 6). -/
opaque Config.drawOffset : Nat → Half

end Sys2Proof
end

