-- ==== Sys2Proof/Syntax.lean ====
section
/-! DEFINITION. The instructions: the five commands and the tick event of 30_encoding.md R54. No instruction has a field:
the operands of a command stand in `ARG0` to `ARG2` (R51, R53), and the tick event carries none (R52). -/

namespace Sys2Proof

/-- One constructor for each row of spec/opcode_table.json. -/
inductive Instr where
  /-- START, `OP` 0x1 (41_sequencer.md R76). -/
  | start
  /-- START_PL, `OP` 0x2 (41_sequencer.md R83). -/
  | startPl
  /-- STOP, `OP` 0x3 (41_sequencer.md R86). -/
  | stop
  /-- FINISH, `OP` 0x4 (41_sequencer.md R87). -/
  | finish
  /-- IS_PLAYING, `OP` 0x5 (41_sequencer.md R88). -/
  | isPlaying
  /-- TICK, the event of the sample-rate timer (40_tick.md R60). -/
  | tick
deriving DecidableEq, Repr

end Sys2Proof
end

