-- ==== Sys2Proof/WellFormed.lean ====
section
/-! DEFINITION. What is well formed: an instruction, a CMD word, the launch parameters. -/

namespace Sys2Proof

/-- Every instruction is well formed: no format has a register field or an immediate field (30_encoding.md R51, R52). -/
def Instr.wf (_ : Instr) : Bool := true

/-- A CMD word selects an instruction: `RSV` is 0 and `OP` is 0x1 .. 0x5 (30_encoding.md R51, R54). -/
def cmdWordWf (v : Word) : Bool :=
  v.toNat / 16 = 0 && (1 ≤ v.toNat % 16 && v.toNat % 16 ≤ 5)

/-- The launch parameters lie in the ranges of 00_scope.md R6. -/
def Params.wf (p : Params) : Bool :=
  (1 ≤ p.romSize && p.romSize ≤ Config.addrSpace) && (1 ≤ p.clkHz && 1 ≤ p.tickPeriodMax)

end Sys2Proof
end

