-- ==== Sys2Proof/Decode.lean ====
section
/-! DEFINITION. The decoder of a CMD word, total on all 2^32 words (30_encoding.md R56), the decoder of the tick event (R52),
and the encoder, each from the opcode map of R54. -/

namespace Sys2Proof

/-- Why a host access is refused (60_exceptions.md R93). -/
inductive RefuseReason where
  /-- RF_RESERVED_BITS: a CMD word with `[31:4]` not 0. -/
  | reservedBits
  /-- RF_RESERVED_OP: a CMD word with `OP` 0x0 or 0x6 .. 0xF. -/
  | reservedOp
  /-- RF_BAD_OFFSET: an access at an unmapped offset, not 32 bits wide, or not at a multiple of 4. -/
  | badOffset
  /-- RF_RO_WRITE: a write to `STATUS` or `RESULT`. -/
  | roWrite
  /-- RF_WO_READ: a read of `CMD`. -/
  | woRead
deriving DecidableEq, Repr

/-- `RSV`, bits `[31:4]` of a CMD word (R51). -/
def rsvField (v : Word) : BitVec 28 := v.extractLsb' 4 28

/-- `OP`, bits `[3:0]` of a CMD word (R51). -/
def opField (v : Word) : BitVec 4 := v.extractLsb' 0 4

/-- The command an opcode selects; none for the reserved opcodes 0x0 and 0x6 .. 0xF (R54, R55). -/
def commandOf (op : BitVec 4) : Option Instr :=
  if op = 0x1 then some .start
  else if op = 0x2 then some .startPl
  else if op = 0x3 then some .stop
  else if op = 0x4 then some .finish
  else if op = 0x5 then some .isPlaying
  else none

/-- `Decode(v)`: the reserved bits are checked before the opcode (R56). -/
def decodeCmd (v : Word) : Except RefuseReason Instr :=
  if rsvField v ≠ 0 then .error .reservedBits
  else match commandOf (opField v) with
    | some i => .ok i
    | none => .error .reservedOp

/-- The tick event: `tick_req = 1` is a TICK, `tick_req = 0` is no event (R52). -/
def decodeEvt (req : BitVec 1) : Option Instr :=
  if req = 1 then some .tick else none

/-- The CMD word of a command (R54: `match = OP`, all of `RSV` 0); none for TICK, which no CMD word reaches (R52). -/
def encodeCmd (i : Instr) : Option Word :=
  match i with
  | .start => some 0x00000001
  | .startPl => some 0x00000002
  | .stop => some 0x00000003
  | .finish => some 0x00000004
  | .isPlaying => some 0x00000005
  | .tick => none

/-- The event bit of TICK (R52); none for a command. -/
def encodeEvt (i : Instr) : Option (BitVec 1) :=
  match i with
  | .tick => some 1
  | .start | .startPl | .stop | .finish | .isPlaying => none

/-- How many bits the instruction's format has, in whole bytes: 32 for CMD (R51), 8 for the one-bit EVT (R52). -/
def Instr.nbits (i : Instr) : Nat :=
  match i with
  | .tick => 8
  | .start | .startPl | .stop | .finish | .isPlaying => 32

/-- The instruction's bits as a number: the CMD word, or the event bit. -/
def encode (i : Instr) : Nat :=
  match encodeCmd i with
  | some v => v.toNat
  | none => match encodeEvt i with
    | some b => b.toNat
    | none => 0

/-- Whether a row of that many bits is of the format CMD: a CMD word has 32 bits, the event fewer (R51, R52, R57). -/
def isCmdFormat (nbits : Nat) : Bool := 32 ≤ nbits

/-- What the decoder reads from an instruction whose bits are `w`, numbered as spec/opcode_table.json numbers them. The format
follows from the width, since a CMD word 0x1 and the event bit 1 are the same number (R51, R52, log entry 12). Only bit 0
of an event counts: the table's mask is 0x1. -/
def decodeTableWord (nbits w : Nat) : Option Instr :=
  if isCmdFormat nbits then
    if w < 2 ^ 32 then (decodeCmd (BitVec.ofNat 32 w)).toOption else none
  else decodeEvt (BitVec.ofNat 1 w)

end Sys2Proof
end

