-- ==== Sys2Proof/Machine/State.lean ====
section
/-! DEFINITION. The state of VPL-STSM, as plain data: every field of 10_state.md R15, the launch parameters of 00_scope.md R6,
and the two inputs and the two records the model adds (log entries 2, 3, 4, 6, 8). -/

namespace Sys2Proof.Machine

/-- Why the block stops: the nine codes of 60_exceptions.md R91 with their `info`, and one of the model's own. Each is SAFE:
it stands for behaviour the source calls undefined, and after it nothing more is claimed (R90, D8). -/
inductive Fault where
  /-- 0x1 F_ZERO_LENGTH, info `(b, n)`: `CheckBuf` in START S1, START_PL P1 and a TICK Advance. Safe. -/
  | zeroLength (b n : Nat)
  /-- 0x2 F_LENGTH_RANGE, info `(b, n)`: `CheckBuf`, as F_ZERO_LENGTH. Safe. -/
  | lengthRange (b n : Nat)
  /-- 0x3 F_ADDR_RANGE, info the value that failed: START S1, START_PL P1, a TICK Advance, `MemRead`. An integer, since
  `base + len - 1` may lie below 0 in a state that no run reaches. Safe. -/
  | addrRange (a : Int)
  /-- 0x4 F_RATE_ZERO, info 0: START S1, START_PL P1; in the model also S2, in states no run reaches (log entry 11). Safe. -/
  | rateZero
  /-- 0x5 F_PERIOD_RANGE, info the period: START S1, START_PL P1. Safe. -/
  | periodRange (p : Nat)
  /-- 0x6 F_COUNT_RANGE, info `N`: START_PL P1. Safe. -/
  | countRange (n : Nat)
  /-- 0x7 F_RAMP_OVERRUN, info `offset`: TICK (40_tick.md R67). Safe. -/
  | rampOverrun (offset : Nat)
  /-- 0x8 F_NO_BUFFER, no info: TICK (40_tick.md R68). Safe. -/
  | noBuffer
  /-- 0x9 F_LAST_UNWRITTEN, no info: TICK (40_tick.md R69). Safe. -/
  | lastUnwritten
  /-- The model's own, no code of R91: a TICK Advance while `pl_base` is none, in states no run reaches (10_state.md R21,
  log entry 10). Safe. -/
  | unlinkedPlaylist
deriving DecidableEq, Repr

/-- Why a host access has no meaning. -/
inductive Refusal where
  /-- Raised by an arm of `exec` that has no meaning yet. Safe. No arm raises it now. -/
  | notModelled (mnemonic : String)
  /-- The refusals of 60_exceptions.md R93, raised by `Decode` and by the host accesses of 20_memory.md R41. Safe: it errs
  toward unprovable (R92). -/
  | host (r : RefuseReason)
deriving DecidableEq, Repr

/-- The reason of R93 a refusal carries, if it is one of those. -/
def Refusal.reason? (r : Refusal) : Option RefuseReason :=
  match r with
  | .notModelled _ => none
  | .host why => some why

/-- An event of the output log (00_scope.md R11). -/
inductive Event where
  /-- `Duty(v)`: a tick wrote `v` to the PWM duty register. -/
  | duty (v : Byte)
  /-- `Start(p)`: S2 configured the tick timer with period `p` and enabled the tick and the PWM output. -/
  | start (p : Nat)
  /-- `Stop`: the terminal transition disabled the tick and the PWM output. -/
  | stop
deriving DecidableEq, Repr

/-- A sample buffer descriptor, `(base, len)` (10_state.md R18). -/
structure Descriptor where
  base : Half
  len : Half
deriving DecidableEq, Repr

/-- The commands that have a micro-step after the first (41_sequencer.md R74), so that can be in progress. -/
inductive CmdOp where
  | start
  | startPl
deriving DecidableEq, Repr

/-- The instruction in progress. -/
def CmdOp.instr (op : CmdOp) : Instr :=
  match op with
  | .start => .start
  | .startPl => .startPl

/-- The next micro-step of a command in progress: `k` = 1, 2, 3 of 10_state.md R26 are S2, S3, S4 (41_sequencer.md R74). -/
inductive MicroStep where
  | s2
  | s3
  | s4
deriving DecidableEq, Repr

/-- The index `k` of R26. -/
def MicroStep.index (k : MicroStep) : Nat :=
  match k with
  | .s2 => 1
  | .s3 => 2
  | .s4 => 3

/-- The command in progress (10_state.md R26). -/
structure Cmd where
  op : CmdOp
  k : MicroStep
  a0 : Word
  a1 : Word
  a2 : Word
  buf : Descriptor
deriving DecidableEq, Repr

/-- A host access to the register window (20_memory.md R41): its offset from `BLK_BASE`, its width in bits, and for a write
its value. -/
inductive Access where
  | write (off bits : Nat) (v : Word)
  | read (off bits : Nat)
deriving DecidableEq, Repr

/-- The two agents (00_scope.md R5). -/
inductive Agent where
  | host
  | tick
deriving DecidableEq, Repr

/-- The state (10_state.md R15), the launch parameters (R6), and the model's own fields. -/
structure State where
  /-- R17. -/
  playing : Bool
  /-- R18, the source's `active_buffer`. -/
  act : Option Descriptor
  /-- R19. -/
  offset : Half
  /-- R20, the source's `last_sample_value`. -/
  last : Option Byte
  /-- R21. -/
  plBase : Option Half
  /-- R21; 0 means no playlist is active. -/
  plLen : Half
  /-- R21. -/
  plPos : Half
  /-- R22, the sample-rate timer's interrupt enable. -/
  tickEn : Bool
  /-- R22. -/
  tickPeriod : Option Nat
  /-- R22, the output gate. -/
  pwmEn : Bool
  /-- R22. -/
  pinActive : Bool
  /-- R22. -/
  duty : Byte
  /-- R24, `ARG0`. -/
  arg0 : Word
  /-- R24, `ARG1`. -/
  arg1 : Word
  /-- R24, `ARG2`. -/
  arg2 : Word
  /-- R24, `RESULT`. -/
  result : Word
  /-- R26. -/
  cmd : Option Cmd
  /-- R27, R90; sticky. -/
  fault : Option Fault
  /-- R27, R92; sticky. R27's Bool is `refused.isSome`; the reason of R93 is kept beside it (log entry 7). -/
  refused : Option RefuseReason
  /-- R27, R11; oldest first. -/
  log : List Event
  /-- The launch parameters of R6; no step changes them. -/
  params : Params
  /-- `ROM` (R6, R33): the cells that differ from `Config.unlistedByte`, addresses rising; no step changes it. -/
  rom : List Host.Cell
  /-- The host program: the accesses the host has still to perform (R12, log entry 3). -/
  prog : List Access
  /-- The interleaving: whose turn each next step is (R46, R97, log entry 4). -/
  sched : List Agent
  /-- The values the host has read back, oldest first (R11, log entry 8). -/
  reads : List Word
  /-- How many draws have been taken: the argument of `Config.drawOffset` (R94, log entry 6). -/
  draws : Nat
deriving DecidableEq, Repr

/-- The state of 10_state.md R31 with launch parameters `p`, ROM `rom`, host program `prog` and interleaving `sched`
(70_reset_and_hazards.md R107: reset is a condition of the launch). -/
def State.launch (p : Params) (rom : List Host.Cell) (prog : List Access) (sched : List Agent) : State where
  playing := false
  act := none
  offset := 0
  last := none
  plBase := none
  plLen := 0
  plPos := 0
  tickEn := false
  tickPeriod := none
  pwmEn := false
  pinActive := false
  duty := Config.resetDuty
  arg0 := 0
  arg1 := 0
  arg2 := 0
  result := 0
  cmd := none
  fault := none
  refused := none
  log := []
  params := p
  rom := rom
  prog := prog
  sched := sched
  reads := []
  draws := 0

/-- The machine right after reset (R31), every OPEN parameter free, the ROM with nothing listed, no host program. -/
def State.reset : State := State.launch Config.openParams [] [] []

end Sys2Proof.Machine
end

