-- ==== Sys2Proof/Machine/Ops.lean ====
section
/-! DEFINITION. The named operations over the state: the ROM and its two read primitives (20_memory.md R34, R37), raising a
fault and refusing (60_exceptions.md R90, R92), emitting an event (00_scope.md R11), and the groups of writes that several
instructions share. -/

namespace Sys2Proof.Machine

/-- The outcome of one step of an agent (00_scope.md R10). -/
abbrev Res := Host.Outcome State Fault Refusal

/-- `ROM[a]`: the listed byte, else the unlisted one. -/
def memByte (m : List Host.Cell) (a : Nat) : Byte :=
  match m with
  | [] => Config.unlistedByte
  | c :: rest => if c.1 = a then c.2 else memByte rest a

/-- The ROM image with byte `v` at address `a`: how an image is loaded BEFORE a run. No step writes memory (20_memory.md R33).
It keeps the canonical form: the unlisted value removes the entry. -/
def memPlace (m : List Host.Cell) (a : Nat) (v : Byte) : List Host.Cell :=
  match m with
  | [] => if v = Config.unlistedByte then [] else [(a, v)]
  | c :: rest =>
    if a < c.1 then (if v = Config.unlistedByte then c :: rest else (a, v) :: c :: rest)
    else if a = c.1 then (if v = Config.unlistedByte then rest else (a, v) :: rest)
    else c :: memPlace rest a v

/-- Several bytes from address `a` up, loaded before a run. -/
def memPlaceAll (m : List Host.Cell) (a : Nat) (vs : List Byte) : List Host.Cell :=
  match vs with
  | [] => m
  | v :: rest => memPlaceAll (memPlace m a v) (a + 1) rest

/-- The addresses of a canonical memory rise from `lo` on, and no entry equals the unlisted byte. -/
def memWfFrom (lo : Nat) (m : List Host.Cell) : Bool :=
  match m with
  | [] => true
  | c :: rest => (lo ≤ c.1 && c.2 != Config.unlistedByte) && memWfFrom (c.1 + 1) rest

/-- The canonical form of a memory. -/
def memWf (m : List Host.Cell) : Bool := memWfFrom 0 m

/-- `MemRead(a, 1)` over integers: the byte when `0 <= a < ROM_SIZE`, else F_ADDR_RANGE with info `a` (20_memory.md R34). -/
def memRead (s : State) (a : Int) : Except Fault Byte :=
  if 0 ≤ a ∧ a < s.params.romSize then .ok (memByte s.rom a.toNat) else .error (.addrRange a)

/-- A little-endian 16-bit field of a descriptor (20_memory.md R36, R38). -/
def le16 (lo hi : Byte) : Half := halfOf (lo.toNat + 256 * hi.toNat)

/-- `DescRead(p, i)`: the four bytes of entry `i` of the table at `p`; it does not validate (20_memory.md R37). -/
def descRead (s : State) (p i : Nat) : Except Fault Descriptor := do
  let b0 ← memRead s (p + 4 * i : Nat)
  let b1 ← memRead s (p + 4 * i + 1 : Nat)
  let b2 ← memRead s (p + 4 * i + 2 : Nat)
  let b3 ← memRead s (p + 4 * i + 3 : Nat)
  pure { base := le16 b0 b1, len := le16 b2 b3 }

/-- The address of a buffer's final byte, `base + len - 1` over integers (40_tick.md R64, 41_sequencer.md R80). -/
def Descriptor.finalAddr (d : Descriptor) : Int := d.base.toNat + d.len.toNat - 1

/-- `raise Fault(f)`: `fault <- f` is written in place of the step's writes (60_exceptions.md R90). -/
def raiseFault (f : Fault) (s : State) : State := { s with fault := some f }

/-- `refuse(r)`: no write except `refused` (60_exceptions.md R92). -/
def refuse (r : RefuseReason) (s : State) : State := { s with refused := some r }

/-- `emit e` (00_scope.md R9, R11). -/
def emit (e : Event) (s : State) : State := { s with log := s.log ++ [e] }

/-- `pl_base <- none; pl_len <- 0; pl_pos <- 0` (10_state.md R21): "clears any playlist", finish's three writes. -/
def clearPlaylist (s : State) : State := { s with plBase := none, plLen := 0, plPos := 0 }

/-- `act <- d; offset <- 0` of S1 and P1 (41_sequencer.md R78, R85). -/
def loadBuffer (d : Descriptor) (s : State) : State := { s with act := some d, offset := 0 }

/-- `duty <- v; emit Duty(v); offset <- k`: what a Streaming, Advance or Ramping tick outputs (40_tick.md R63, R64, R66). -/
def output (v : Byte) (k : Nat) (s : State) : State :=
  emit (.duty v) { s with duty := v, offset := halfOf k }

/-- S2's writes: period, tick, gate, pin, `Start(p)` (41_sequencer.md R79). -/
def openOutput (p : Nat) (s : State) : State :=
  emit (.start p) { s with tickPeriod := some p, tickEn := true, pwmEn := true, pinActive := true }

/-- The terminal transition's disabling of the tick and the output, with `Stop` (40_tick.md R65). -/
def closeOutput (s : State) : State :=
  emit .stop { s with tickEn := false, pwmEn := false, pinActive := false }

/-- What a step writes, given the outcome of the agent's action taken in `s`: the action's own state; on a fault only
`fault` (R90); on a refusal only `refused` (R92). An instruction that has no meaning stays refused. -/
def commit (s : State) (o : Res) : Res :=
  match o with
  | .next t => .next t
  | .fault f => .next (raiseFault f s)
  | .refused r => match r.reason? with
    | some why => .next (refuse why s)
    | none => .refused r

/-- The number of a fault code (60_exceptions.md R91); 0 for the model's own. -/
def Fault.code (f : Fault) : Nat :=
  match f with
  | .zeroLength _ _ => 0x1
  | .lengthRange _ _ => 0x2
  | .addrRange _ => 0x3
  | .rateZero => 0x4
  | .periodRange _ => 0x5
  | .countRange _ => 0x6
  | .rampOverrun _ => 0x7
  | .noBuffer => 0x8
  | .lastUnwritten => 0x9
  | .unlinkedPlaylist => 0x0

/-- The `info` of a fault (60_exceptions.md R91). -/
def Fault.info (f : Fault) : List Int :=
  match f with
  | .zeroLength b n => [b, n]
  | .lengthRange b n => [b, n]
  | .addrRange a => [a]
  | .rateZero => [0]
  | .periodRange p => [p]
  | .countRange n => [n]
  | .rampOverrun k => [k]
  | .noBuffer => []
  | .lastUnwritten => []
  | .unlinkedPlaylist => []

end Sys2Proof.Machine
end

