-- ==== Sys2Proof/Machine/Flags.lean ====
section
/-! DEFINITION. What is computed from the state and not stored: the has-next test (40_tick.md R70), the phase (10_state.md R29),
`STATUS` (R25), `level` (R23), and the value of IS_PLAYING (41_sequencer.md R88). No instruction writes a flag as a side
effect, but that the terminal transition clears `playing` (R30). -/

namespace Sys2Proof.Machine

/-- `pl_pos + 1 < pl_len` over integers (40_tick.md R64, R70). -/
def hasNext (s : State) : Bool := s.plPos.toNat + 1 < s.plLen.toNat

/-- The states, conceptually (10_state.md R29). -/
inductive Phase where
  | idle
  | streaming
  | advance
  | rampDone
  | ramping
deriving DecidableEq, Repr

/-- The phase, evaluated in the order of R29; none where the phase would read `act` or `last` while it is none, which R29
leaves without a phase (a TICK faults there, 40_tick.md R68, R69). -/
def phase (s : State) : Option Phase :=
  if s.playing = false then some .idle
  else match s.act with
    | none => none
    | some d =>
      if s.offset.toNat < d.len.toNat then some .streaming
      else if hasNext s then some .advance
      else match s.last with
        | none => none
        | some v => if s.offset.toNat = d.len.toNat + v.toNat then some .rampDone else some .ramping

/-- `STATUS.RAMP` (R25): playing, a buffer, `offset >= act.len`, and no next entry. -/
def rampBit (s : State) : Bool :=
  match s.act with
  | none => false
  | some d => s.playing && (d.len.toNat ≤ s.offset.toNat && !hasNext s)

/-- A bit of a register as a number of weight `w`. -/
def bitAt (w : Nat) (b : Bool) : Nat := if b then w else 0

/-- `STATUS` (R25): PLAYING, TICK_EN, PWM_EN, PL_ACTIVE, RAMP in bits 0 to 4, and bits `[31:5]` zero. -/
def statusWord (s : State) : Word :=
  BitVec.ofNat 32
    (bitAt 1 s.playing + bitAt 2 s.tickEn + bitAt 4 s.pwmEn + bitAt 8 (0 < s.plLen.toNat) + bitAt 16 (rampBit s))

/-- `zext_32(playing)` (41_sequencer.md R88). -/
def playingWord (s : State) : Word := BitVec.ofNat 32 (bitAt 1 s.playing)

/-- The amplitude presented on the output: `duty` through the gate, else 0 (10_state.md R23). -/
def level (s : State) : Byte := if s.pwmEn && s.pinActive then s.duty else 0

end Sys2Proof.Machine
end

