-- ==== Sys2Proof/Machine/Operands.lean ====
section
/-! DEFINITION. The operands of the commands (30_encoding.md R53, 41_sequencer.md R75) and their checks, in the order the spec
lists them: the first that fails raises its fault (60_exceptions.md R98). -/

namespace Sys2Proof.Machine

/-- `CheckBuf(b, n)` (20_memory.md R35). -/
def checkBuf (p : Params) (b n : Nat) : Except Fault Unit :=
  if n = 0 then .error (.zeroLength b n)
  else if n > Config.lenMax then .error (.lengthRange b n)
  else if b + n > p.romSize then .error (.addrRange (b + n : Nat))
  else .ok ()

/-- `CLK_HZ div rate`, floor division (41_sequencer.md R79). -/
def tickPeriodOf (p : Params) (rate : Word) : Nat := p.clkHz / rate.toNat

/-- The checks of the rate: F_RATE_ZERO, then F_PERIOD_RANGE (41_sequencer.md R77 checks 3 and 4, R85 checks 5 and 6). -/
def checkRate (p : Params) (rate : Word) : Except Fault Unit :=
  if rate.toNat = 0 then .error .rateZero
  else if tickPeriodOf p rate = 0 ∨ tickPeriodOf p rate > p.tickPeriodMax then
    .error (.periodRange (tickPeriodOf p rate))
  else .ok ()

/-- `StartChecks(a0, a1, a2)` (41_sequencer.md R77): the buffer the operands name, or the first failing check's fault. -/
def startChecks (s : State) (a0 a1 a2 : Word) : Except Fault Descriptor :=
  if a0.toNat ≥ Config.addrSpace then .error (.addrRange a0.toNat)
  else do
    checkBuf s.params a0.toNat a1.toNat
    checkRate s.params a2
    pure { base := halfOf a0.toNat, len := halfOf a1.toNat }

/-- `PlChecks(a0, a1, a2)` (41_sequencer.md R85): descriptor 0 of the table, or the first failing check's fault. -/
def plChecks (s : State) (a0 a1 a2 : Word) : Except Fault Descriptor :=
  if a1.toNat > Config.plMax then .error (.countRange a1.toNat)
  else if a0.toNat ≥ Config.addrSpace then .error (.addrRange a0.toNat)
  else if a0.toNat + 4 * a1.toNat > s.params.romSize then .error (.addrRange (a0.toNat + 4 * a1.toNat : Nat))
  else do
    let d ← descRead s a0.toNat 0
    checkBuf s.params d.base.toNat d.len.toNat
    checkRate s.params a2
    pure d

/-- The command in progress after micro-step 0: the operands latched from `ARG0` to `ARG2`, `k` = 1, the descriptor for S3
(10_state.md R26, 41_sequencer.md R74, R75). -/
def latchCmd (op : CmdOp) (d : Descriptor) (s : State) : State :=
  { s with cmd := some { op := op, k := .s2, a0 := s.arg0, a1 := s.arg1, a2 := s.arg2, buf := d } }

end Sys2Proof.Machine
end

