-- ==== Sys2Proof/Machine/Sequencer.lean ====
section
/-! DEFINITION. The sequencer commands (41_sequencer.md). A meaning is the command's NEXT micro-step: with no command in
progress the first one, which the CMD write performs (R74), and for START and START_PL with `cmd` set the micro-step
`cmd.k`. The machine runs micro-step `k` of `cmd` and nothing else while `cmd` is set (R74). -/

namespace Sys2Proof.Machine

/-- S2 of START and START_PL (41_sequencer.md R79). A latched rate of 0 has no period: fault, in states no run reaches
(log entry 11). -/
def startS2 (c : Cmd) (s : State) : Res :=
  if c.a2.toNat = 0 then .fault .rateZero
  else .next { openOutput (tickPeriodOf s.params c.a2) s with cmd := some { c with k := .s3 } }

/-- S3 of START and START_PL: `last <- MemRead(buf.base + buf.len - 1, 1)`, of the latched descriptor (41_sequencer.md R80). -/
def startS3 (c : Cmd) (s : State) : Res :=
  match memRead s c.buf.finalAddr with
  | .error f => .fault f
  | .ok v => .next { s with last := some v, cmd := some { c with k := .s4 } }

/-- S4 of START and START_PL: `playing <- true; cmd <- none` (41_sequencer.md R81). -/
def startS4 (s : State) : Res := .next { s with playing := true, cmd := none }

/-- The micro-steps after the first, the same for START and START_PL (41_sequencer.md R74, R83). -/
def startTail (c : Cmd) (s : State) : Res :=
  match c.k with
  | .s2 => startS2 c s
  | .s3 => startS3 c s
  | .s4 => startS4 s

/-- S1, START's critical section: the checks, then the playlist cleared, the buffer loaded, the operands latched
(41_sequencer.md R76, R77, R78). -/
def startS1 (s : State) : Res :=
  match startChecks s s.arg0 s.arg1 s.arg2 with
  | .error f => .fault f
  | .ok d => .next (latchCmd .start d (loadBuffer d (clearPlaylist s)))

/-- P1, START_PL's critical section: the checks, then the playlist and its entry 0 (41_sequencer.md R85). The playlist is
set, not cleared (90_conflicts.md C3). -/
def startPlP1 (s : State) : Res :=
  match plChecks s s.arg0 s.arg1 s.arg2 with
  | .error f => .fault f
  | .ok d =>
    .next (latchCmd .startPl d (loadBuffer d
      { s with plBase := some (halfOf s.arg0.toNat), plLen := halfOf s.arg1.toNat, plPos := 0 }))

/-- START (41_sequencer.md R76): S1, then S2, S3, S4. -/
def execStart (s : State) : Res :=
  match s.cmd with
  | none => startS1 s
  | some c => startTail c s

/-- START_PL (41_sequencer.md R83): P0 alone for an entry count of 0 (R84), else P1, then S2, S3, S4. -/
def execStartPl (s : State) : Res :=
  match s.cmd with
  | none => if s.arg1.toNat = 0 then .next s else startPlP1 s
  | some c => startTail c s

/-- `offset <- act.len`, or a draw when there is no buffer (41_sequencer.md R86, D20). -/
def stopOffset (s : State) : State :=
  match s.act with
  | some d => { s with offset := d.len }
  | none => { s with offset := Config.drawOffset s.draws, draws := s.draws + 1 }

/-- STOP (41_sequencer.md R86): T1. -/
def execStop (s : State) : Res := .next (stopOffset (clearPlaylist s))

/-- FINISH (41_sequencer.md R87): F1. It clears the playlist only (90_conflicts.md C4). -/
def execFinish (s : State) : Res := .next (clearPlaylist s)

/-- IS_PLAYING (41_sequencer.md R88): Q1. -/
def execIsPlaying (s : State) : Res := .next { s with result := playingWord s }

end Sys2Proof.Machine
end

