-- ==== Sys2Proof/Machine/Tick.lean ====
section
/-! DEFINITION. TICK, the sample-tick state machine (40_tick.md): one atomic step of the tick agent. -/

namespace Sys2Proof.Machine

/-- Streaming: output the byte at `offset`, count one (40_tick.md R63). -/
def tickStream (d : Descriptor) (s : State) : Res :=
  match memRead s (d.base.toNat + s.offset.toNat : Nat) with
  | .error f => .fault f
  | .ok v => .next (output v (s.offset.toNat + 1) s)

/-- What an Advance reads before it writes: the next descriptor, checked, its first and its final byte (40_tick.md R64). -/
def advanceReads (s : State) : Except Fault (Descriptor × Byte × Byte) :=
  match s.plBase with
  | none => .error .unlinkedPlaylist
  | some p => do
    let d ← descRead s p.toNat (s.plPos.toNat + 1)
    checkBuf s.params d.base.toNat d.len.toNat
    let first ← memRead s d.base.toNat
    let final ← memRead s d.finalAddr
    pure (d, first, final)

/-- Advance: the next entry becomes active and its first byte is this tick's output, so `offset` ends at 1 (40_tick.md R64). -/
def tickAdvance (s : State) : Res :=
  match advanceReads s with
  | .error f => .fault f
  | .ok (d, first, final) =>
    .next (output first 1 { s with plPos := halfOf (s.plPos.toNat + 1), act := some d, last := some final })

/-- Terminal: the session ends; tick, gate and pin off; finish's three writes (40_tick.md R65). -/
def tickTerminal (s : State) : State := clearPlaylist (closeOutput { s with playing := false })

/-- Ramping: output `n + v - offset`, count one (40_tick.md R66). -/
def tickRamp (d : Descriptor) (v : Byte) (s : State) : State :=
  output (byteOf (d.len.toNat + v.toNat - s.offset.toNat)) (s.offset.toNat + 1) s

/-- The end-of-buffer cases after Advance: last unwritten, Terminal, overrun, Ramping (40_tick.md R65 to R69). -/
def tickEnd (d : Descriptor) (s : State) : Res :=
  match s.last with
  | none => .fault .lastUnwritten
  | some v =>
    if s.offset.toNat = d.len.toNat + v.toNat then .next (tickTerminal s)
    else if s.offset.toNat > d.len.toNat + v.toNat then .fault (.rampOverrun s.offset.toNat)
    else .next (tickRamp d v s)

/-- TICK (40_tick.md R60), its cases in the order of R61. That it is delivered only while `tick_en = 1` is the tick agent's
affair (60_exceptions.md R95). -/
def execTick (s : State) : Res :=
  if s.playing = false then .next s
  else match s.act with
    | none => .fault .noBuffer
    | some d =>
      if s.offset.toNat < d.len.toNat then tickStream d s
      else if hasNext s then tickAdvance s
      else tickEnd d s

end Sys2Proof.Machine
end

