-- ==== Sys2Proof/Machine/Dispatch.lean ====
section
/-! DEFINITION. One arm per instruction. -/

namespace Sys2Proof.Machine

-- The next micro-step of the instruction, in a state in which its agent may take it.
def exec (i : Instr) (s : State) : Host.Outcome State Fault Refusal :=
  match i with
  | .start => Sys2Proof.Machine.execStart s
  | .startPl => Sys2Proof.Machine.execStartPl s
  | .stop => Sys2Proof.Machine.execStop s
  | .finish => Sys2Proof.Machine.execFinish s
  | .isPlaying => Sys2Proof.Machine.execIsPlaying s
  | .tick => Sys2Proof.Machine.execTick s

end Sys2Proof.Machine
end

