-- ==== Sys2Proof/Machine/Agents.lean ====
section
/-! DEFINITION. The two agents: a host access (20_memory.md R41), the host's turn (41_sequencer.md R74), the tick's turn
(60_exceptions.md R95), whose turn it is (20_memory.md R46), how an instruction is placed for the next step, and the
expansions of the pseudo-instructions (30_encoding.md R59). -/

namespace Sys2Proof.Machine

/-- An access must be 32 bits wide at a multiple of 4 (20_memory.md R39, R41). -/
def wordAccess (off bits : Nat) : Bool := bits = 32 && off % 4 = 0

/-- A CMD write: decode, and perform the command's first micro-step in the same step (30_encoding.md R56). -/
def writeCmd (v : Word) (s : State) : Res :=
  match decodeCmd v with
  | .error r => .refused (.host r)
  | .ok i => exec i s

/-- `HostWrite(off, v)` (20_memory.md R41). -/
def hostWrite (off bits : Nat) (v : Word) (s : State) : Res :=
  if wordAccess off bits = false then .refused (.host .badOffset)
  else if off = 0x00 then writeCmd v s
  else if off = 0x04 then .next { s with arg0 := v }
  else if off = 0x08 then .next { s with arg1 := v }
  else if off = 0x0C then .next { s with arg2 := v }
  else if off = 0x10 ∨ off = 0x14 then .refused (.host .roWrite)
  else .refused (.host .badOffset)

/-- The value `HostRead(off)` returns, or why it is refused (20_memory.md R41). -/
def readValue (off bits : Nat) (s : State) : Except RefuseReason Word :=
  if wordAccess off bits = false then .error .badOffset
  else if off = 0x04 then .ok s.arg0
  else if off = 0x08 then .ok s.arg1
  else if off = 0x0C then .ok s.arg2
  else if off = 0x10 then .ok (statusWord s)
  else if off = 0x14 then .ok s.result
  else if off = 0x00 then .error .woRead
  else .error .badOffset

/-- A host read: the value goes to the record of what the host has read back (00_scope.md R11) and the block is unchanged
(20_memory.md R40). -/
def hostRead (off bits : Nat) (s : State) : Res :=
  match readValue off bits s with
  | .error r => .refused (.host r)
  | .ok v => .next { s with reads := s.reads ++ [v] }

/-- One host access (20_memory.md R41). -/
def hostAccess (a : Access) (s : State) : Res :=
  match a with
  | .write off bits v => hostWrite off bits v s
  | .read off bits => hostRead off bits s

/-- The host's turn (41_sequencer.md R74): the next micro-step of the command in progress, else the next access of the host
program, else nothing. -/
def hostTurn (s : State) : Res :=
  match s.cmd with
  | some c => commit s (exec c.op.instr s)
  | none => match s.prog with
    | [] => .next s
    | a :: rest => commit { s with prog := rest } (hostAccess a { s with prog := rest })

/-- The tick's turn (60_exceptions.md R95): a TICK while `tick_en = 1`; otherwise the request is lost. -/
def tickTurn (s : State) : Res :=
  if s.tickEn = true then commit s (exec .tick s) else .next s

/-- The host has a step left: a micro-step, or an access of its program (00_scope.md R12). -/
def hostReady (s : State) : Bool := s.cmd.isSome || !s.prog.isEmpty

/-- The turn of the agent the interleaving names next. When it names none, the host goes on while it has a step and the tick
after it, which is weakly fair to the tick (00_scope.md R13, log entry 4). -/
def takeTurn (s : State) : Res :=
  match s.sched with
  | .host :: rest => hostTurn { s with sched := rest }
  | .tick :: rest => tickTurn { s with sched := rest }
  | [] => if hostReady s then hostTurn s else tickTurn s

/-- One step. After a fault or a refusal no agent has a step (60_exceptions.md R90, R92): the recorded one is answered. -/
def agentStep (s : State) : Res :=
  match s.fault with
  | some f => .fault f
  | none => match s.refused with
    | some r => .refused (.host r)
    | none => takeTurn s

/-- The state with neither fault nor refusal recorded, so that an agent has a step. -/
def unstopped (s : State) : State := { s with fault := none, refused := none }

/-- The host's next step is the CMD write of `v`: it stands first in the host program, the host has the next turn, and no
command is in progress (log entry 13). -/
def placeCmdWord (v : Word) (s : State) : State :=
  { unstopped s with cmd := none, prog := .write 0x00 32 v :: s.prog, sched := .host :: s.sched }

/-- The next step is the tick agent's, with the tick interrupt enabled (log entry 13). -/
def placeTick (s : State) : State :=
  { unstopped s with tickEn := true, sched := .tick :: s.sched }

/-- The pseudo-instruction `start base, len, rate` (30_encoding.md R59). -/
def pseudoStart (base len rate : Word) : List Access :=
  [.write 0x04 32 base, .write 0x08 32 len, .write 0x0C 32 rate, .write 0x00 32 0x00000001]

/-- The pseudo-instruction `start_pl p, n, rate` (30_encoding.md R59). -/
def pseudoStartPl (p n rate : Word) : List Access :=
  [.write 0x04 32 p, .write 0x08 32 n, .write 0x0C 32 rate, .write 0x00 32 0x00000002]

/-- The pseudo-instruction `stop` (30_encoding.md R59). -/
def pseudoStop : List Access := [.write 0x00 32 0x00000003]

/-- The pseudo-instruction `finish` (30_encoding.md R59). -/
def pseudoFinish : List Access := [.write 0x00 32 0x00000004]

/-- The pseudo-instruction `is_playing` (30_encoding.md R59): the result is bit 0 of the value read back. -/
def pseudoIsPlaying : List Access := [.write 0x00 32 0x00000005, .read 0x14 32]

/-- The pseudo-instruction `status` (30_encoding.md R59). -/
def pseudoStatus : List Access := [.read 0x10 32]

end Sys2Proof.Machine
end

