-- ==== Sys2Proof/Machine/Step.lean ====
section
/-! DEFINITION. One step of the machine, and an instruction placed where the next step takes it. Everything they do stands in
Machine/Agents.lean. -/

namespace Sys2Proof.Machine

/-- One step of one agent (00_scope.md R5, R10). -/
def step (s : State) : Host.Outcome State Fault Refusal := agentStep s

/-- The state in which the very next step runs the instruction whose bits are `w`: a CMD word is written by the host's next
access (30_encoding.md R56); the tick event with `tick_req = 1` is taken by the tick agent (R52, R95); `tick_req = 0` is no
event and changes nothing. -/
def State.withFetchWord (s : State) (nbits w : Nat) : State :=
  if isCmdFormat nbits then placeCmdWord (BitVec.ofNat 32 w) s
  else if BitVec.ofNat 1 w = 1 then placeTick s
  else s

end Sys2Proof.Machine
end

