-- ==== Sys2Proof/Safety.lean ====
section
/-! DEFINITION. The terms claims use: a final state (00_scope.md R12), the hang (70_reset_and_hazards.md R112), the invariant of
the state (the sentences of 10_state.md that say "in every reachable state" and "whenever"), the events of a session
(40_tick.md R73), and a run in which an agent has the next turns. -/

namespace Sys2Proof

/-- A timer period the sample-rate timer takes (10_state.md R22). -/
abbrev Params.periodOk (p : Params) (n : Nat) : Prop := 1 ≤ n ∧ n ≤ p.tickPeriodMax

end Sys2Proof

namespace Sys2Proof.Machine

/-- A final state: no host step left, no command in progress, the tick disabled, no fault and no refusal (00_scope.md R12). -/
def State.final (s : State) : Bool :=
  !hostReady s && !s.tickEn && s.fault.isNone && s.refused.isNone

/-- No fault and no refusal is recorded, so that an agent has a step (60_exceptions.md R90, R92). -/
abbrev State.live (s : State) : Prop := s.fault = none ∧ s.refused = none

/-- The hang: `playing = true`, `tick_en = 0`, no command in progress (70_reset_and_hazards.md R112). -/
abbrev State.hang (s : State) : Prop := s.playing = true ∧ s.tickEn = false ∧ s.cmd = none

/-- A descriptor that `CheckBuf` accepts: `1 <= len <= LEN_MAX` and inside the ROM (10_state.md R18, 20_memory.md R35). -/
abbrev Descriptor.ok (p : Params) (d : Descriptor) : Prop :=
  1 ≤ d.len.toNat ∧ d.len.toNat ≤ Config.lenMax ∧ d.base.toNat + d.len.toNat ≤ p.romSize

/-- A command in progress as micro-step 0 leaves it (41_sequencer.md R74, R77, R85): its buffer and its rate passed the
checks, a buffer is active, and at S4 `last` has been written (R80). -/
structure CmdInv (s : State) (c : Cmd) : Prop where
  buf : c.buf.ok s.params
  rate : c.a2.toNat ≠ 0
  period : s.params.periodOk (tickPeriodOf s.params c.a2)
  active : s.act ≠ none
  cached : c.k = .s4 → s.last ≠ none

/-- What holds of the state at launch and after every step. -/
structure Inv (s : State) : Prop where
  /-- R6. -/
  params : s.params.wf = true
  /-- The canonical form of the ROM. -/
  rom : memWf s.rom = true
  /-- The ROM ends at `ROM_SIZE` (20_memory.md R32). -/
  romEnd : ∀ c ∈ s.rom, c.1 < s.params.romSize
  /-- R18: whenever `act` is not none, it passed `CheckBuf`. -/
  act : ∀ d, s.act = some d → d.ok s.params
  /-- R19: `offset <= act.len + 255`. -/
  offset : ∀ d, s.act = some d → s.offset.toNat ≤ d.len.toNat + 255
  /-- R21: whenever `pl_len > 0`, `pl_base` is not none and `pl_pos < pl_len`; R85: the table lies in the ROM. -/
  playlist : 0 < s.plLen.toNat →
    s.plPos.toNat < s.plLen.toNat ∧ ∃ p, s.plBase = some p ∧ p.toNat + 4 * s.plLen.toNat ≤ s.params.romSize
  /-- R22: `tick_en = pwm_en = pin_active`. -/
  enables : s.tickEn = s.pwmEn ∧ s.pwmEn = s.pinActive
  /-- R22: `tick_period` is none or 1 .. `TICK_PERIOD_MAX`. -/
  period : ∀ p, s.tickPeriod = some p → s.params.periodOk p
  /-- 70_reset_and_hazards.md R109: the tick is never enabled before a buffer is assigned. -/
  ticking : s.tickEn = true → s.act ≠ none ∧ s.tickPeriod ≠ none
  /-- 40_tick.md R68, R69: while playing, `act` and `last` have been written. -/
  playing : s.playing = true → s.act ≠ none ∧ s.last ≠ none
  /-- R26. -/
  cmd : ∀ c, s.cmd = some c → CmdInv s c
  /-- R24: `RESULT[31:1]` read 0. -/
  result : s.result.toNat ≤ 1

/-- Entry `i` of the descriptor table at `p`, its four bytes read as 20_memory.md R36 lays them out. -/
def tableEntry (s : State) (p i : Nat) : Descriptor where
  base := halfOf ((memByte s.rom (p + 4 * i)).toNat + 256 * (memByte s.rom (p + 4 * i + 1)).toNat)
  len := halfOf ((memByte s.rom (p + 4 * i + 2)).toNat + 256 * (memByte s.rom (p + 4 * i + 3)).toNat)

/-- `Duty(B[0]) .. Duty(B[n-1])`: the events of streaming a buffer (40_tick.md R73). -/
def streamEvents (s : State) (d : Descriptor) : List Event :=
  (List.range d.len.toNat).map fun i => .duty (memByte s.rom (d.base.toNat + i))

/-- `Duty(v), Duty(v-1), .., Duty(1)`: the events of a ramp from `v` (40_tick.md R73). -/
def rampEvents (v : Byte) : List Event :=
  (List.range v.toNat).map fun i => .duty (byteOf (v.toNat - i))

/-- The events of streaming `k` consecutive entries of the table at `p`, from entry `i` on (40_tick.md R73). -/
def entriesEvents (s : State) (p i : Nat) (k : Nat) : List Event :=
  match k with
  | 0 => []
  | k + 1 => streamEvents s (tableEntry s p i) ++ entriesEvents s p (i + 1) k

/-- The sum of the lengths of `k` consecutive entries of the table at `p`, from entry `i` on (40_tick.md R73). -/
def entriesTicks (s : State) (p i : Nat) (k : Nat) : Nat :=
  match k with
  | 0 => 0
  | k + 1 => (tableEntry s p i).len.toNat + entriesTicks s p (i + 1) k

/-- `s` with the next turn given to the agent `a`. -/
def State.turnNext (s : State) (a : Agent) : State := { s with sched := a :: s.sched }

/-- `s` with the next turn given to the host and `a` as the next access of its program. -/
def State.accessNext (s : State) (a : Access) : State :=
  { s with prog := a :: s.prog, sched := .host :: s.sched }

/-- `s` with the next `k` turns given to the agent `a`. -/
def State.nextTurns (s : State) (a : Agent) (k : Nat) : State :=
  { s with sched := List.replicate k a ++ s.sched }

/-- The outcome of the next `k` steps when they are all `a`'s. -/
def runTurns (a : Agent) (k : Nat) (s : State) : Res := Host.Core.run Sys2Proof.core k (s.nextTurns a k)

end Sys2Proof.Machine
end

