-- ==== Sys2Proof/Certificates/Slice0/Obligations.lean ====
section
/-! DEFINITION. The statements for the provers, from the numbered rules of spec/. Each docstring names the rule. A state
`t.accessNext a` is `t` with the host access `a` next; `t.turnNext .tick` is `t` with the tick's turn next. -/

open Sys2Proof Sys2Proof.Machine

/-! ## Encoding -/

/-- 30_encoding.md section 3: the words of the opcode map, written out bit by bit. A sanity statement. -/
def Obligations.TabledWordsDecode : Prop :=
  decodeCmd 0b00000000000000000000000000000001 = .ok .start ∧
  decodeCmd 0b00000000000000000000000000000010 = .ok .startPl ∧
  decodeCmd 0b00000000000000000000000000000011 = .ok .stop ∧
  decodeCmd 0b00000000000000000000000000000100 = .ok .finish ∧
  decodeCmd 0b00000000000000000000000000000101 = .ok .isPlaying ∧
  decodeEvt 0b1 = some .tick ∧ decodeEvt 0b0 = none

/-- R54: a CMD word selects an instruction exactly when it is that instruction's word of the opcode map, for all 2^32
words; the event bit selects TICK exactly when it is 1. -/
def Obligations.DecodeAcceptsExactlyTheEncodedWords : Prop :=
  (∀ (v : Word) (i : Instr), decodeCmd v = .ok i ↔ encodeCmd i = some v) ∧
  (∀ (v : Word) (i : Instr), decodeCmd v = .ok i ↔
    (v = 1 ∧ i = .start) ∨ (v = 2 ∧ i = .startPl) ∨ (v = 3 ∧ i = .stop) ∨ (v = 4 ∧ i = .finish) ∨
      (v = 5 ∧ i = .isPlaying)) ∧
  (∀ (b : BitVec 1) (i : Instr), decodeEvt b = some i ↔ encodeEvt i = some b)

/-- R55: reserved CMD words are refused, the reserved bits before the opcode, and change no field but `refused`. -/
def Obligations.ReservedWordsAreRefused : Prop :=
  ∀ (t : State) (v : Word), t.live → t.cmd = none →
    (v.toNat / 16 ≠ 0 →
      step (t.accessNext (.write 0x00 32 v)) = .next { t with refused := some .reservedBits }) ∧
    (v.toNat / 16 = 0 → v.toNat % 16 = 0 ∨ 6 ≤ v.toNat % 16 →
      step (t.accessNext (.write 0x00 32 v)) = .next { t with refused := some .reservedOp })

/-! ## Steps and agents -/

/-- 30_encoding.md section 3, 41_sequencer.md section 1, 60_exceptions.md section 3: a step runs the decoded instruction; a
CMD write of its word runs it, with the access and the turn used up; the host's turn runs the command in progress; the
tick's turn runs TICK. The last two clauses are the model's choice and no rule of the spec: that `withFetchWord` places a
word so that the next step runs it, with neither fault nor refusal recorded and no command in progress, or the tick
enabled (log entry 13, DESIGN CHOICE), and that the width tells a CMD word and the event apart (log entry 12, DEDUCED). -/
def Obligations.StepRunsTheDecodedInstruction : Prop :=
  (∀ (t : State) (v : Word) (i : Instr), t.live → t.cmd = none → decodeCmd v = .ok i →
    step (t.accessNext (.write 0x00 32 v)) = commit t (exec i t)) ∧
  (∀ (t : State) (c : Cmd), t.live → t.cmd = some c →
    step (t.turnNext .host) = commit t (exec c.op.instr t)) ∧
  (∀ t : State, t.live → t.tickEn = true → step (t.turnNext .tick) = commit t (exec .tick t)) ∧
  (∀ (s : State) (w : Nat) (i : Instr), decodeTableWord 32 w = some i →
    step (s.withFetchWord 32 w) =
      commit { s with fault := none, refused := none, cmd := none }
        (exec i { s with fault := none, refused := none, cmd := none })) ∧
  (∀ (s : State) (w : Nat) (i : Instr), decodeTableWord 8 w = some i →
    step (s.withFetchWord 8 w) =
      commit { s with fault := none, refused := none, tickEn := true }
        (exec i { s with fault := none, refused := none, tickEn := true }))

/-- 60_exceptions.md section 3: a TICK step is enabled exactly when `tick_en = 1`, no fault and no refusal; a request
made otherwise is not remembered. -/
def Obligations.TickIsDeliveredExactlyWhileEnabled : Prop :=
  (∀ t : State, t.live →
    step (t.turnNext .tick) = if t.tickEn = true then commit t (exec .tick t) else .next t) ∧
  (∀ t u : State, ¬ t.live → step (t.turnNext .tick) ≠ .next u)

/-- 00_scope.md section 6 (fairness), with the model's choice of log entry 4 for a used-up interleaving: the tick is
taken as soon as the host has no step left. -/
def Obligations.IdleHostLetsTheTickRun : Prop :=
  ∀ s : State, s.live → s.sched = [] → s.cmd = none → s.prog = [] → s.tickEn = true →
    step s = commit s (exec .tick s)

/-- 00_scope.md section 6: a final state has no step left: nothing of it changes but that unused turns pass. -/
def Obligations.FinalStatesDoNotMove : Prop :=
  ∀ s : State, s.final = true → step s = .next { s with sched := s.sched.tail }

/-- R90: a fault drops every write of the step, writes `fault` alone, and is never cleared. The consumed turn and
access are the model's input (log entries 3 and 4). -/
def Obligations.FaultsDropTheWritesAndStick : Prop :=
  (∀ (s t : State) (f : Fault), step s = .next t → t.fault = some f →
    t = { s with fault := some f, prog := t.prog, sched := t.sched }) ∧
  (∀ (s : State) (f : Fault), s.fault = some f → step s = .fault f ∧ s.final = false) ∧
  (∀ (t : State) (i : Instr) (f : Fault), exec i t = .fault f → commit t (exec i t) = .next { t with fault := some f })

/-- R92: a refusal writes nothing but `refused`, and after it no step changes anything. -/
def Obligations.RefusalsWriteOnlyRefused : Prop :=
  (∀ (s t : State) (r : RefuseReason), step s = .next t → t.refused = some r →
    t = { s with refused := some r, prog := t.prog, sched := t.sched }) ∧
  (∀ s : State, s.refused ≠ none → s.final = false ∧ ∀ t : State, step s ≠ .next t)

/-- R41: the whole table of host accesses; `CMD` decodes and starts a command. -/
def Obligations.HostAccessesFollowTheRegisterMap : Prop :=
  (∀ (t : State) (off bits : Nat) (v : Word), t.live → t.cmd = none →
    step (t.accessNext (.write off bits v)) =
      if bits ≠ 32 ∨ off % 4 ≠ 0 then .next { t with refused := some .badOffset }
      else if off = 0x00 then
        match decodeCmd v with
        | .ok i => commit t (exec i t)
        | .error r => .next { t with refused := some r }
      else if off = 0x04 then .next { t with arg0 := v }
      else if off = 0x08 then .next { t with arg1 := v }
      else if off = 0x0C then .next { t with arg2 := v }
      else if off = 0x10 ∨ off = 0x14 then .next { t with refused := some .roWrite }
      else .next { t with refused := some .badOffset }) ∧
  (∀ (t : State) (off bits : Nat), t.live → t.cmd = none →
    step (t.accessNext (.read off bits)) =
      if bits ≠ 32 ∨ off % 4 ≠ 0 then .next { t with refused := some .badOffset }
      else if off = 0x00 then .next { t with refused := some .woRead }
      else if off = 0x04 then .next { t with reads := t.reads ++ [t.arg0] }
      else if off = 0x08 then .next { t with reads := t.reads ++ [t.arg1] }
      else if off = 0x0C then .next { t with reads := t.reads ++ [t.arg2] }
      else if off = 0x10 then .next { t with reads := t.reads ++ [statusWord t] }
      else if off = 0x14 then .next { t with reads := t.reads ++ [t.result] }
      else .next { t with refused := some .badOffset }) ∧
  (∀ (t u : State) (a : Access), t.cmd ≠ none → step (t.accessNext a) = .next u → u.prog = a :: t.prog)

/-! ## The ROM and the checks -/

/-- R37: `DescRead` reads the four bytes of the entry, little-endian, and validates nothing; outside the ROM it
faults. -/
def Obligations.DescReadIsLittleEndian : Prop :=
  ∀ (s : State) (p i : Nat),
    (p + 4 * i + 3 < s.params.romSize → descRead s p i = .ok (tableEntry s p i)) ∧
    (s.params.romSize ≤ p + 4 * i + 3 → ∃ a : Int,
      descRead s p i = .error (.addrRange a) ∧ (s.params.romSize : Int) ≤ a ∧ (p + 4 * i : Int) ≤ a ∧ a ≤ p + 4 * i + 3)

/-- R35: `CheckBuf` reports the first failing check in order, and accepts exactly the buffers that pass all three. -/
def Obligations.CheckBufReportsTheFirstFailure : Prop :=
  ∀ (p : Params) (b n : Nat),
    (n = 0 → checkBuf p b n = .error (.zeroLength b n)) ∧
    (32767 < n → checkBuf p b n = .error (.lengthRange b n)) ∧
    (1 ≤ n → n ≤ 32767 → p.romSize < b + n → checkBuf p b n = .error (.addrRange (b + n))) ∧
    (checkBuf p b n = .ok () ↔ 1 ≤ n ∧ n ≤ 32767 ∧ b + n ≤ p.romSize)

/-- 20_memory.md section 1: no step changes the ROM or a launch parameter. -/
def Obligations.NoStepChangesTheRom : Prop :=
  ∀ s t : State, step s = .next t →
    t.rom = s.rom ∧ t.params = s.params ∧ ∀ a : Nat, memByte t.rom a = memByte s.rom a

/-! ## START and START_PL -/

/-- 41_sequencer.md section 2: with operands that pass every check, START's S1 clears the playlist, loads the buffer
and latches the operands, and writes nothing else. -/
def Obligations.StartLoadsTheBuffer : Prop :=
  ∀ s : State, s.cmd = none → s.arg0.toNat < 65536 → 1 ≤ s.arg1.toNat → s.arg1.toNat ≤ 32767 →
    s.arg0.toNat + s.arg1.toNat ≤ s.params.romSize → s.arg2.toNat ≠ 0 →
    1 ≤ s.params.clkHz / s.arg2.toNat → s.params.clkHz / s.arg2.toNat ≤ s.params.tickPeriodMax →
    ∃ d : Descriptor, d.base.toNat = s.arg0.toNat ∧ d.len.toNat = s.arg1.toNat ∧
      exec .start s = .next { s with
        plBase := none, plLen := 0, plPos := 0, act := some d, offset := 0
        cmd := some { op := .start, k := .s2, a0 := s.arg0, a1 := s.arg1, a2 := s.arg2, buf := d } }

/-- R77: START's checks, in order; the first that fails is the fault. -/
def Obligations.StartRaisesTheFirstFailingCheck : Prop :=
  ∀ s : State, s.cmd = none →
    (65536 ≤ s.arg0.toNat → exec .start s = .fault (.addrRange s.arg0.toNat)) ∧
    (s.arg0.toNat < 65536 → s.arg1.toNat = 0 → exec .start s = .fault (.zeroLength s.arg0.toNat 0)) ∧
    (s.arg0.toNat < 65536 → 32767 < s.arg1.toNat →
      exec .start s = .fault (.lengthRange s.arg0.toNat s.arg1.toNat)) ∧
    (s.arg0.toNat < 65536 → 1 ≤ s.arg1.toNat → s.arg1.toNat ≤ 32767 →
      (s.params.romSize < s.arg0.toNat + s.arg1.toNat →
        exec .start s = .fault (.addrRange (s.arg0.toNat + s.arg1.toNat : Nat))) ∧
      (s.arg0.toNat + s.arg1.toNat ≤ s.params.romSize →
        (s.arg2.toNat = 0 → exec .start s = .fault .rateZero) ∧
        (s.arg2.toNat ≠ 0 →
          s.params.clkHz / s.arg2.toNat = 0 ∨ s.params.tickPeriodMax < s.params.clkHz / s.arg2.toNat →
            exec .start s = .fault (.periodRange (s.params.clkHz / s.arg2.toNat)))))

/-- R79: S2 of START and START_PL sets the period to the floor of the quotient, enables tick, gate and pin, and emits
`Start`. -/
def Obligations.SecondMicroStepOpensTheOutput : Prop :=
  ∀ (s : State) (c : Cmd) (i : Instr), i = .start ∨ i = .startPl → s.cmd = some c → c.k = .s2 → c.a2.toNat ≠ 0 →
    exec i s = .next { s with
      tickPeriod := some (s.params.clkHz / c.a2.toNat), tickEn := true, pwmEn := true, pinActive := true
      log := s.log ++ [.start (s.params.clkHz / c.a2.toNat)], cmd := some { c with k := .s3 } }

/-- R80: S3 caches the final byte of the LATCHED buffer, whatever `act` is by then. -/
def Obligations.ThirdMicroStepCachesTheFinalByte : Prop :=
  ∀ (s : State) (c : Cmd) (i : Instr), i = .start ∨ i = .startPl → s.cmd = some c → c.k = .s3 →
    1 ≤ c.buf.base.toNat + c.buf.len.toNat → c.buf.base.toNat + c.buf.len.toNat ≤ s.params.romSize →
    exec i s = .next { s with
      last := some (memByte s.rom (c.buf.base.toNat + c.buf.len.toNat - 1)), cmd := some { c with k := .s4 } }

/-- R81: S4 sets `playing` and ends the command, and no other step makes `playing` true. -/
def Obligations.OnlyTheFourthMicroStepSetsPlaying : Prop :=
  (∀ (s : State) (c : Cmd) (i : Instr), i = .start ∨ i = .startPl → s.cmd = some c → c.k = .s4 →
    exec i s = .next { s with playing := true, cmd := none }) ∧
  (∀ s t : State, step s = .next t → s.playing = false → t.playing = true →
    t.cmd = none ∧ ∃ c : Cmd, s.cmd = some c ∧ c.k = .s4)

/-- R84: START_PL with an entry count of 0 changes nothing, whatever the other operands are. -/
def Obligations.EmptyPlaylistIsANoOp : Prop :=
  ∀ t : State, t.cmd = none → t.arg1.toNat = 0 →
    exec .startPl t = .next t ∧ (t.live → step (t.accessNext (.write 0x00 32 2)) = .next t)

/-- R85: START_PL's checks in order, then, all passed, P1's writes; entry 0 of the table is the buffer. -/
def Obligations.StartPlChecksThenLoadsEntryZero : Prop :=
  ∀ s : State, s.cmd = none → 1 ≤ s.arg1.toNat →
    (65535 < s.arg1.toNat → exec .startPl s = .fault (.countRange s.arg1.toNat)) ∧
    (s.arg1.toNat ≤ 65535 → 65536 ≤ s.arg0.toNat → exec .startPl s = .fault (.addrRange s.arg0.toNat)) ∧
    (s.arg1.toNat ≤ 65535 → s.arg0.toNat < 65536 → s.params.romSize < s.arg0.toNat + 4 * s.arg1.toNat →
      exec .startPl s = .fault (.addrRange (s.arg0.toNat + 4 * s.arg1.toNat : Nat))) ∧
    (s.arg1.toNat ≤ 65535 → s.arg0.toNat < 65536 → s.arg0.toNat + 4 * s.arg1.toNat ≤ s.params.romSize →
      exec .startPl s =
        match checkBuf s.params (tableEntry s s.arg0.toNat 0).base.toNat (tableEntry s s.arg0.toNat 0).len.toNat with
        | .error f => .fault f
        | .ok _ =>
          if s.arg2.toNat = 0 then .fault .rateZero
          else if s.params.clkHz / s.arg2.toNat = 0 ∨ s.params.tickPeriodMax < s.params.clkHz / s.arg2.toNat then
            .fault (.periodRange (s.params.clkHz / s.arg2.toNat))
          else .next { s with
            plBase := some (BitVec.ofNat 16 s.arg0.toNat), plLen := BitVec.ofNat 16 s.arg1.toNat, plPos := 0
            act := some (tableEntry s s.arg0.toNat 0), offset := 0
            cmd := some { op := .startPl, k := .s2, a0 := s.arg0, a1 := s.arg1, a2 := s.arg2,
                          buf := tableEntry s s.arg0.toNat 0 } })

/-- 41_sequencer.md section 3: START_PL with one to 65535 entries, a table and an entry 0 inside the ROM and a rate
the timer takes completes P1. -/
def Obligations.StartPlCompletes : Prop :=
  ∀ s : State, s.cmd = none → 1 ≤ s.arg1.toNat → s.arg1.toNat ≤ 65535 → s.arg0.toNat < 65536 →
    s.arg0.toNat + 4 * s.arg1.toNat ≤ s.params.romSize → (tableEntry s s.arg0.toNat 0).ok s.params →
    s.arg2.toNat ≠ 0 → s.params.periodOk (s.params.clkHz / s.arg2.toNat) →
    ∃ t : State, exec .startPl s = .next t ∧ t.act = some (tableEntry s s.arg0.toNat 0) ∧ t.offset = 0 ∧
      t.plPos = 0 ∧ t.plLen.toNat = s.arg1.toNat ∧ (∃ p : Half, t.plBase = some p ∧ p.toNat = s.arg0.toNat) ∧
      t.playing = s.playing ∧ t.last = s.last ∧ t.tickEn = s.tickEn ∧ t.duty = s.duty ∧ t.log = s.log

/-- 41_sequencer.md section 2: START's four micro-steps, with no tick between them, from its CMD write to its return:
the state of the rule's example in general. The old `duty` stands. -/
def Obligations.StartRunsToItsReturn : Prop :=
  ∀ s : State, s.live → s.cmd = none → s.arg0.toNat < 65536 → 1 ≤ s.arg1.toNat → s.arg1.toNat ≤ 32767 →
    s.arg0.toNat + s.arg1.toNat ≤ s.params.romSize → s.arg2.toNat ≠ 0 →
    s.params.periodOk (s.params.clkHz / s.arg2.toNat) →
    ∃ d : Descriptor, d.base.toNat = s.arg0.toNat ∧ d.len.toNat = s.arg1.toNat ∧
      runTurns .host 4 { s with prog := .write 0x00 32 1 :: s.prog } = .next { s with
        plBase := none, plLen := 0, plPos := 0, act := some d, offset := 0
        tickPeriod := some (s.params.clkHz / s.arg2.toNat), tickEn := true, pwmEn := true, pinActive := true
        log := s.log ++ [.start (s.params.clkHz / s.arg2.toNat)]
        last := some (memByte s.rom (s.arg0.toNat + s.arg1.toNat - 1)), playing := true, cmd := none }

/-- 41_sequencer.md section 2: a START while a session plays preempts it with no ramp: `playing` stays true and the
tick that follows S1 outputs the new buffer's first byte. -/
def Obligations.StartPreemptsAPlayingSession : Prop :=
  ∀ s t : State, s.cmd = none → s.playing = true → exec .start s = .next t →
    t.playing = true ∧ ∃ u : State, exec .tick t = .next u ∧ u.duty = memByte s.rom s.arg0.toNat ∧ u.offset = 1 ∧
      u.log = s.log ++ [.duty (memByte s.rom s.arg0.toNat)] ∧ u.playing = true ∧ u.cmd = t.cmd

/-! ## STOP, FINISH, IS_PLAYING -/

/-- 41_sequencer.md section 4: STOP clears the playlist and moves `offset` to the end of the buffer; with no buffer
`offset` is a draw, of which nothing is said. Nothing else changes. -/
def Obligations.StopMovesOffsetToTheEnd : Prop :=
  ∀ s : State,
    (∀ d : Descriptor, s.act = some d →
      exec .stop s = .next { s with plBase := none, plLen := 0, plPos := 0, offset := d.len }) ∧
    (s.act = none → ∃ (k : Half) (n : Nat),
      exec .stop s = .next { s with plBase := none, plLen := 0, plPos := 0, offset := k, draws := n })

/-- 41_sequencer.md section 5: FINISH clears the playlist and nothing else; it is idempotent; with no playlist it
changes nothing; after it no tick is an Advance. -/
def Obligations.FinishClearsOnlyThePlaylist : Prop :=
  ∀ s : State, exec .finish s = .next { s with plBase := none, plLen := 0, plPos := 0 } ∧
    (s.plBase = none → s.plLen = 0 → s.plPos = 0 → exec .finish s = .next s) ∧
    (∀ t : State, exec .finish s = .next t → exec .finish t = .next t ∧ phase t ≠ some .advance)

/-- 41_sequencer.md section 6: IS_PLAYING writes `RESULT` with `playing`, the same bit as `STATUS[0]`, and nothing
else. -/
def Obligations.IsPlayingReportsPlaying : Prop :=
  ∀ s : State, exec .isPlaying s = .next { s with result := if s.playing = true then 1 else 0 } ∧
    ∀ t : State, exec .isPlaying s = .next t →
      t.result.getLsbD 0 = s.playing ∧ (statusWord t).getLsbD 0 = s.playing ∧ statusWord t = statusWord s

/-! ## TICK -/

/-- R62: an idle tick changes nothing, whatever `act` and `last` are. -/
def Obligations.IdleTickChangesNothing : Prop :=
  ∀ s : State, s.playing = false → exec .tick s = .next s

/-- R63: a streaming tick outputs the byte at `offset` and counts one, so that `offset` is at most `n`. -/
def Obligations.StreamingTickOutputsTheByte : Prop :=
  ∀ (s : State) (d : Descriptor), s.playing = true → s.act = some d → s.offset.toNat < d.len.toNat →
    d.base.toNat + d.len.toNat ≤ s.params.romSize →
    ∃ t : State, exec .tick s = .next t ∧ t.offset.toNat = s.offset.toNat + 1 ∧ t.offset.toNat ≤ d.len.toNat ∧
      t = { s with
        duty := memByte s.rom (d.base.toNat + s.offset.toNat)
        log := s.log ++ [.duty (memByte s.rom (d.base.toNat + s.offset.toNat))], offset := t.offset }

/-- 40_tick.md section 2, Advance: at the end of a buffer that is not the playlist's last entry, the tick loads the
next entry and outputs its first byte, or faults as `CheckBuf` says with nothing written. -/
def Obligations.AdvanceTickLoadsTheNextEntry : Prop :=
  ∀ (s : State) (d : Descriptor) (p : Half), s.playing = true → s.act = some d → d.len.toNat ≤ s.offset.toNat →
    s.plPos.toNat + 1 < s.plLen.toNat → s.plBase = some p →
    p.toNat + 4 * s.plLen.toNat ≤ s.params.romSize →
    exec .tick s =
      match checkBuf s.params (tableEntry s p.toNat (s.plPos.toNat + 1)).base.toNat
          (tableEntry s p.toNat (s.plPos.toNat + 1)).len.toNat with
      | .error f => .fault f
      | .ok _ => .next { s with
          plPos := BitVec.ofNat 16 (s.plPos.toNat + 1)
          act := some (tableEntry s p.toNat (s.plPos.toNat + 1))
          last := some (memByte s.rom ((tableEntry s p.toNat (s.plPos.toNat + 1)).base.toNat +
            (tableEntry s p.toNat (s.plPos.toNat + 1)).len.toNat - 1))
          duty := memByte s.rom (tableEntry s p.toNat (s.plPos.toNat + 1)).base.toNat
          log := s.log ++ [.duty (memByte s.rom (tableEntry s p.toNat (s.plPos.toNat + 1)).base.toNat)]
          offset := 1 }

/-- 40_tick.md section 2, Terminal: the terminal tick clears `playing`, disables tick, gate and pin, emits `Stop` and
clears the playlist; `duty`, `offset`, `act`, `last` and everything else stay. -/
def Obligations.TerminalTickEndsTheSession : Prop :=
  ∀ (s : State) (d : Descriptor) (v : Byte), s.playing = true → s.act = some d → s.last = some v →
    ¬ s.plPos.toNat + 1 < s.plLen.toNat → s.offset.toNat = d.len.toNat + v.toNat →
    exec .tick s = .next { s with
      playing := false, tickEn := false, pwmEn := false, pinActive := false, log := s.log ++ [.stop]
      plBase := none, plLen := 0, plPos := 0 }

/-- 40_tick.md section 2, Ramping: a ramping tick outputs `n + v - offset`, which lies in 1 .. `v`, and counts one.
The bound on the length is R18's, an invariant of the model. -/
def Obligations.RampTickOutputsTheRemainder : Prop :=
  ∀ (s : State) (d : Descriptor) (v : Byte), s.playing = true → s.act = some d → s.last = some v →
    d.len.toNat ≤ 32767 → d.len.toNat ≤ s.offset.toNat → ¬ s.plPos.toNat + 1 < s.plLen.toNat →
    s.offset.toNat < d.len.toNat + v.toNat →
    ∃ (t : State) (r : Byte), exec .tick s = .next t ∧ r.toNat + s.offset.toNat = d.len.toNat + v.toNat ∧
      1 ≤ r.toNat ∧ r.toNat ≤ v.toNat ∧ t.offset.toNat = s.offset.toNat + 1 ∧
      t = { s with duty := r, log := s.log ++ [.duty r], offset := t.offset }

/-- 40_tick.md section 3: an end-of-buffer tick, other than an Advance, past `n + last` is F_RAMP_OVERRUN with info
`offset`. -/
def Obligations.RampOverrunFaults : Prop :=
  ∀ (s : State) (d : Descriptor) (v : Byte), s.playing = true → s.act = some d → s.last = some v →
    ¬ s.plPos.toNat + 1 < s.plLen.toNat → d.len.toNat + v.toNat < s.offset.toNat →
    exec .tick s = .fault (.rampOverrun s.offset.toNat)

/-- R68, R69: a playing tick without a buffer, or at a buffer's end without `last`, faults; neither happens under the
invariant that every step keeps. -/
def Obligations.UnwrittenStateFaults : Prop :=
  (∀ s : State, s.playing = true → s.act = none → exec .tick s = .fault .noBuffer) ∧
  (∀ (s : State) (d : Descriptor), s.playing = true → s.act = some d → d.len.toNat ≤ s.offset.toNat →
    ¬ s.plPos.toNat + 1 < s.plLen.toNat → s.last = none → exec .tick s = .fault .lastUnwritten) ∧
  (∀ s : State, Inv s → exec .tick s ≠ .fault .noBuffer ∧ exec .tick s ≠ .fault .lastUnwritten)

/-- 40_tick.md section 1: Advance comes before Terminal and Ramping: while a next entry exists, `last` is not
compared, and the tick's outcome does not depend on it. -/
def Obligations.AdvanceWinsOverTheRamp : Prop :=
  ∀ (s t : State) (d : Descriptor) (l : Option Byte), s.playing = true → s.act = some d →
    d.len.toNat ≤ s.offset.toNat → s.plPos.toNat + 1 < s.plLen.toNat → exec .tick s = .next t →
    exec .tick { s with last := l } = .next t ∧ t.playing = true ∧ t.offset = 1 ∧
      t.plPos.toNat = s.plPos.toNat + 1 ∧ t.act ≠ none ∧ t.last ≠ none

/-- 60_exceptions.md section 1: under the invariant the only faults of a tick are the ramp overrun and, at an Advance,
what `CheckBuf` finds wrong with the next entry. -/
def Obligations.TickFaultsAreOverrunOrBadEntry : Prop :=
  ∀ (s : State) (f : Fault), Inv s → exec .tick s = .fault f →
    (∃ (d : Descriptor) (v : Byte), f = .rampOverrun s.offset.toNat ∧ s.act = some d ∧ s.last = some v ∧
      d.len.toNat + v.toNat < s.offset.toNat) ∨
    (phase s = some .advance ∧ ∃ p : Half, s.plBase = some p ∧
      checkBuf s.params (tableEntry s p.toNat (s.plPos.toNat + 1)).base.toNat
        (tableEntry s p.toNat (s.plPos.toNat + 1)).len.toNat = .error f)

/-! ## Computed registers and outputs -/

/-- R25: every bit of `STATUS`. -/
def Obligations.StatusBitsAreComputed : Prop :=
  ∀ s : State,
    (statusWord s).getLsbD 0 = s.playing ∧ (statusWord s).getLsbD 1 = s.tickEn ∧ (statusWord s).getLsbD 2 = s.pwmEn ∧
    ((statusWord s).getLsbD 3 = true ↔ 0 < s.plLen.toNat) ∧
    ((statusWord s).getLsbD 4 = true ↔ s.playing = true ∧
      ∃ d : Descriptor, s.act = some d ∧ d.len.toNat ≤ s.offset.toNat ∧ ¬ s.plPos.toNat + 1 < s.plLen.toNat) ∧
    ∀ j : Nat, 5 ≤ j → (statusWord s).getLsbD j = false

/-- R23: the amplitude is `duty` through the gate, else 0, and it is 0 after the terminal tick. -/
def Obligations.LevelIsGatedDuty : Prop :=
  (∀ s : State, (s.pwmEn = true ∧ s.pinActive = true → level s = s.duty) ∧
    (¬ (s.pwmEn = true ∧ s.pinActive = true) → level s = 0)) ∧
  (∀ s t : State, s.playing = true → exec .tick s = .next t → t.playing = false → level t = 0)

/-- R31: what reset leaves, for every choice of launch parameters, ROM and host program; `duty` is a draw, of which
nothing is said. -/
def Obligations.LaunchLeavesTheResetValues : Prop :=
  ∀ (p : Params) (rom : List Host.Cell) (prog : List Access) (sched : List Agent) (s : State),
    s = State.launch p rom prog sched →
    s.playing = false ∧ s.act = none ∧ s.offset = 0 ∧ s.last = none ∧ s.plBase = none ∧ s.plLen = 0 ∧ s.plPos = 0 ∧
    s.tickEn = false ∧ s.pwmEn = false ∧ s.pinActive = false ∧ s.tickPeriod = none ∧
    s.arg0 = 0 ∧ s.arg1 = 0 ∧ s.arg2 = 0 ∧ s.result = 0 ∧ s.cmd = none ∧
    s.fault = none ∧ s.refused = none ∧ s.log = []

/-- 70_reset_and_hazards.md section 1: after reset a tick's turn does nothing, the phase is Idle, the amplitude and
`STATUS` are 0. -/
def Obligations.OnlyTheHostStepsAfterReset : Prop :=
  ∀ (p : Params) (rom : List Host.Cell) (prog : List Access) (sched : List Agent),
    step ((State.launch p rom prog sched).turnNext .tick) = .next (State.launch p rom prog sched) ∧
    phase (State.launch p rom prog sched) = some .idle ∧ level (State.launch p rom prog sched) = 0 ∧
    statusWord (State.launch p rom prog sched) = 0

/-! ## Invariants -/

/-- 10_state.md sections 2 to 5: the invariant holds in the state after reset. -/
def Obligations.ResetMeetsTheInvariant : Prop := Inv State.reset

/-- 10_state.md section 7, 70_reset_and_hazards.md section 1: the invariant holds at every launch with parameters in
range and a canonical ROM. -/
def Obligations.LaunchMeetsTheInvariant : Prop :=
  ∀ (p : Params) (rom : List Host.Cell) (prog : List Access) (sched : List Agent), p.wf = true → memWf rom = true →
    (∀ c ∈ rom, c.1 < p.romSize) → Inv (State.launch p rom prog sched)

/-- 10_state.md sections 2 to 5: every step of either agent, from every state that meets the invariant and under every
host program and interleaving, keeps it. -/
def Obligations.EveryStepKeepsTheInvariant : Prop :=
  ∀ s t : State, Inv s → step s = .next t → Inv t

/-- 10_state.md section 5: `fault` and `refused` are sticky, and no step removes an entry of the log. -/
def Obligations.LogGrowsAndStopsStick : Prop :=
  (∀ s t : State, step s = .next t → ∃ es : List Event, t.log = s.log ++ es ∧ es.length ≤ 1) ∧
  (∀ s t : State, s.fault ≠ none ∨ s.refused ≠ none → step s ≠ .next t)

/-- 10_state.md section 2, 40_tick.md section 2: only the terminal tick clears `playing`, and it closes the gate,
disables the tick and emits `Stop` with it. -/
def Obligations.OnlyTheTerminalTickClearsPlaying : Prop :=
  ∀ s t : State, step s = .next t → s.playing = true → t.playing = false →
    phase s = some .rampDone ∧ t.tickEn = false ∧ t.pwmEn = false ∧ t.pinActive = false ∧ t.log = s.log ++ [.stop] ∧
      t.plLen = 0 ∧ t.cmd = s.cmd

/-- 60_exceptions.md section 3: `tick_en` is set only by S2 and cleared only by the terminal transition. -/
def Obligations.TickEnableHasTwoWriters : Prop :=
  ∀ s t : State, step s = .next t →
    (s.tickEn = false → t.tickEn = true → ∃ c : Cmd, s.cmd = some c ∧ c.k = .s2 ∧ t.pwmEn = true ∧ t.pinActive = true) ∧
    (s.tickEn = true → t.tickEn = false → phase s = some .rampDone ∧ t.playing = false)

/-- 10_state.md section 2: `act`, once set, is never none again, and `last` neither. -/
def Obligations.BufferIsNeverForgotten : Prop :=
  ∀ s t : State, step s = .next t → (s.act ≠ none → t.act ≠ none) ∧ (s.last ≠ none → t.last ≠ none)

/-- 41_sequencer.md sections 2 and 3: a command faults at its first micro-step only: under the invariant S2, S3 and S4
complete, each handing over to the next. -/
def Obligations.CommandsInProgressComplete : Prop :=
  ∀ (s : State) (c : Cmd), Inv s → s.cmd = some c →
    ∃ t : State, exec c.op.instr s = .next t ∧
      (t.cmd = none ∧ c.k = .s4 ∨ ∃ c' : Cmd, t.cmd = some c' ∧ c'.op = c.op ∧ c'.k.index = c.k.index + 1)

/-! ## Frames -/

/-- 60_exceptions.md section 3: a TICK touches no host state; nor the timer period, the ROM, or the model's records;
and what it changes of the playback state it changes only as its case says. -/
def Obligations.TickFrame : Prop :=
  ∀ s t : State, exec .tick s = .next t →
    t.cmd = s.cmd ∧ t.arg0 = s.arg0 ∧ t.arg1 = s.arg1 ∧ t.arg2 = s.arg2 ∧ t.result = s.result ∧
    t.tickPeriod = s.tickPeriod ∧ t.fault = s.fault ∧ t.refused = s.refused ∧ t.params = s.params ∧
    t.prog = s.prog ∧ t.sched = s.sched ∧ t.reads = s.reads ∧ t.draws = s.draws ∧
    (phase s ≠ some .rampDone → t.playing = s.playing ∧ t.tickEn = s.tickEn ∧ t.pwmEn = s.pwmEn ∧
      t.pinActive = s.pinActive ∧ t.plBase = s.plBase ∧ t.plLen = s.plLen) ∧
    (phase s ≠ some .advance → t.act = s.act ∧ t.last = s.last) ∧
    (phase s ≠ some .advance → phase s ≠ some .rampDone → t.plPos = s.plPos) ∧
    (phase s = some .idle ∨ phase s = some .rampDone → t.duty = s.duty ∧ t.offset = s.offset) ∧
    ∀ a : Nat, memByte t.rom a = memByte s.rom a

/-- 41_sequencer.md sections 2 and 3: START and START_PL write no operand register, `RESULT` or `duty`; S1 and P1
write neither `last`, `playing`, the output controls nor the log; no byte of memory changes. -/
def Obligations.StartFrame : Prop :=
  ∀ (s t : State) (i : Instr), i = .start ∨ i = .startPl → exec i s = .next t →
    t.duty = s.duty ∧ t.arg0 = s.arg0 ∧ t.arg1 = s.arg1 ∧ t.arg2 = s.arg2 ∧ t.result = s.result ∧
    t.fault = s.fault ∧ t.refused = s.refused ∧ t.params = s.params ∧
    t.prog = s.prog ∧ t.sched = s.sched ∧ t.reads = s.reads ∧ t.draws = s.draws ∧
    (s.cmd = none → t.last = s.last ∧ t.playing = s.playing ∧ t.tickEn = s.tickEn ∧ t.tickPeriod = s.tickPeriod ∧
      t.pwmEn = s.pwmEn ∧ t.pinActive = s.pinActive ∧ t.log = s.log) ∧
    (s.cmd ≠ none → t.act = s.act ∧ t.offset = s.offset ∧ t.plBase = s.plBase ∧ t.plLen = s.plLen ∧
      t.plPos = s.plPos) ∧
    ∀ a : Nat, memByte t.rom a = memByte s.rom a

/-- 41_sequencer.md sections 4 to 6: STOP and FINISH write the playlist and STOP also `offset`, IS_PLAYING writes
`RESULT`; every other register, the log and every byte of memory stay. -/
def Obligations.StopFinishIsPlayingFrame : Prop :=
  ∀ (s t : State) (i : Instr), i = .stop ∨ i = .finish ∨ i = .isPlaying → exec i s = .next t →
    t.playing = s.playing ∧ t.act = s.act ∧ t.last = s.last ∧ t.tickEn = s.tickEn ∧ t.tickPeriod = s.tickPeriod ∧
    t.pwmEn = s.pwmEn ∧ t.pinActive = s.pinActive ∧ t.duty = s.duty ∧ t.arg0 = s.arg0 ∧ t.arg1 = s.arg1 ∧
    t.arg2 = s.arg2 ∧ t.cmd = s.cmd ∧ t.fault = s.fault ∧ t.refused = s.refused ∧ t.log = s.log ∧ t.params = s.params ∧
    t.prog = s.prog ∧ t.sched = s.sched ∧ t.reads = s.reads ∧
    (i ≠ .stop → t.offset = s.offset ∧ t.draws = s.draws) ∧
    (i ≠ .isPlaying → t.result = s.result) ∧
    (i = .isPlaying → t.plBase = s.plBase ∧ t.plLen = s.plLen ∧ t.plPos = s.plPos) ∧
    ∀ a : Nat, memByte t.rom a = memByte s.rom a

/-- 60_exceptions.md sections 3 and 4: a TICK's effect does not depend on any host register: change `ARG0` to `ARG2`,
`RESULT` and `cmd`, and the same tick happens with those values in place. -/
def Obligations.TickIgnoresHostRegisters : Prop :=
  ∀ (s t : State) (a0 a1 a2 r : Word) (c : Option Cmd), exec .tick s = .next t →
    exec .tick { s with arg0 := a0, arg1 := a1, arg2 := a2, result := r, cmd := c } =
      .next { t with arg0 := a0, arg1 := a1, arg2 := a2, result := r, cmd := c }

/-! ## Sessions and hazards -/

/-- 40_tick.md section 5, law 1: a buffer of `n` bytes with `last = v` streams in `n` ticks, ramps in `v`, and ends
with tick `n + v + 1`; the tick is then disabled. -/
def Obligations.SingleBufferSession : Prop :=
  ∀ (s : State) (d : Descriptor) (v : Byte), s.live → s.tickEn = true → s.playing = true → s.act = some d →
    s.last = some v → s.offset = 0 → d.ok s.params → ¬ s.plPos.toNat + 1 < s.plLen.toNat →
    ∃ t : State, runTurns .tick (d.len.toNat + v.toNat + 1) s = .next t ∧
      t.log = s.log ++ streamEvents s d ++ rampEvents v ++ [.stop] ∧
      t.playing = false ∧ t.tickEn = false ∧ t.pwmEn = false ∧ t.offset.toNat = d.len.toNat + v.toNat ∧
      t.act = some d ∧ t.sched = s.sched

/-- 40_tick.md section 5, law 2: a playlist of `n + 1` valid entries from its first entry on: the bytes of all entries
in order with nothing between them, the ramp of the last entry, and one terminal tick. -/
def Obligations.PlaylistSession : Prop :=
  ∀ (s : State) (p : Half) (n : Nat) (e : Descriptor) (v : Byte), s.live → s.tickEn = true → s.playing = true →
    s.plBase = some p → s.plLen.toNat = n + 1 → s.plPos = 0 → p.toNat + 4 * (n + 1) ≤ s.params.romSize →
    (∀ i ≤ n, (tableEntry s p.toNat i).ok s.params) → e = tableEntry s p.toNat n →
    v = memByte s.rom (e.base.toNat + e.len.toNat - 1) →
    s.act = some (tableEntry s p.toNat 0) → s.offset = 0 →
    (n = 0 → s.last = some v) →
    ∃ t : State, runTurns .tick (entriesTicks s p.toNat 0 (n + 1) + v.toNat + 1) s = .next t ∧
      t.log = s.log ++ entriesEvents s p.toNat 0 (n + 1) ++ rampEvents v ++ [.stop] ∧
      t.playing = false ∧ t.tickEn = false ∧ t.plLen = 0 ∧ t.act = some e ∧ t.last = some v

/-- 40_tick.md section 5, law 3: after a STOP at any `offset`, `v` ramp ticks from the active buffer's cached final
byte, then the terminal tick: `v + 1` ticks to silence. -/
def Obligations.StopRampsToSilence : Prop :=
  ∀ (s t : State) (d : Descriptor) (v : Byte), s.live → s.tickEn = true → s.playing = true → s.act = some d →
    s.last = some v → d.len.toNat ≤ 32767 → exec .stop s = .next t →
    ∃ u : State, runTurns .tick (v.toNat + 1) t = .next u ∧ u.log = s.log ++ rampEvents v ++ [.stop] ∧
      u.playing = false ∧ u.tickEn = false ∧ level u = 0

/-- 70_reset_and_hazards.md section 3: the hang persists: from it, any step but the CMD write of a START or START_PL
leaves `playing` set, the tick disabled and no command in progress. -/
def Obligations.HangPersists : Prop :=
  ∀ s t : State, s.hang → step s = .next t →
    (∀ (v : Word) (rest : List Access), s.prog = .write 0x00 32 v :: rest → v ≠ 1 ∧ v ≠ 2) → t.hang ∧ t.log = s.log

/-- 70_reset_and_hazards.md section 3: how the hang comes about: a terminal tick after S3 of a preempting START, then
S4. -/
def Obligations.TerminalBeforeTheFourthStepHangs : Prop :=
  ∀ (s : State) (c : Cmd), s.live → s.tickEn = true → phase s = some .rampDone → s.cmd = some c → c.k = .s4 →
    ∃ t u : State, step (s.turnNext .tick) = .next t ∧ step (t.turnNext .host) = .next u ∧ u.hang ∧
      u.log = s.log ++ [.stop]
end

