-- ==== Sys2Proof/Laws/Decode.lean ====
section
/-! SUPPORT. The fields of a CMD word as numbers, and a CMD word without reserved bits as its opcode. -/

namespace Sys2Proof

theorem rsvField_eq_zero_iff (v : Word) : rsvField v = 0 ↔ v.toNat / 16 = 0 := by
  unfold rsvField
  have h0 : (0 : BitVec 28).toNat = 0 := rfl
  constructor
  · intro h
    have := congrArg BitVec.toNat h
    simp only [BitVec.extractLsb'_toNat, Nat.shiftRight_eq_div_pow, h0] at this
    omega
  · intro h
    apply BitVec.eq_of_toNat_eq
    simp only [BitVec.extractLsb'_toNat, Nat.shiftRight_eq_div_pow, h0]
    omega

theorem opField_toNat (v : Word) : (opField v).toNat = v.toNat % 16 := by
  simp [opField, BitVec.extractLsb'_toNat]

/-- A CMD word with `RSV = 0` is its opcode. -/
theorem eq_op_of_rsv_zero (v : Word) (h : v.toNat / 16 = 0) : v = BitVec.ofNat 32 (v.toNat % 16) := by
  apply BitVec.eq_of_toNat_eq
  simp only [BitVec.toNat_ofNat]
  omega

/-- A word that decodes is well formed. -/
theorem cmdWordWf_of_decode {v : Word} {i : Instr} (h : decodeCmd v = .ok i) : cmdWordWf v = true := by
  unfold decodeCmd at h
  split at h
  · cases h
  rename_i hr
  have hz := (rsvField_eq_zero_iff v).1 (not_not.1 hr)
  have hv := eq_op_of_rsv_zero v hz
  have hlt : v.toNat % 16 < 16 := Nat.mod_lt _ (by omega)
  generalize v.toNat % 16 = k at hv hlt
  subst hv
  interval_cases k <;> first | rfl | cases h

end Sys2Proof
end

