-- ==== Sys2Proof/Laws/Memory.lean ====
section
/-! SUPPORT. The ROM image: reading what was placed, leaving the rest alone, keeping the canonical form; and what the two read
primitives can answer (20_memory.md R34, R37). -/

namespace Sys2Proof.Machine

theorem memWfFrom_mono {lo lo' : Nat} {m : List Host.Cell} (h : memWfFrom lo m = true) (hle : lo' ≤ lo) :
    memWfFrom lo' m = true := by
  cases m with
  | nil => rfl
  | cons c rest =>
    simp only [memWfFrom, Bool.and_eq_true, decide_eq_true_eq] at h ⊢
    exact ⟨⟨by omega, h.1.2⟩, h.2⟩

theorem memByte_below {lo a : Nat} {m : List Host.Cell} (h : memWfFrom lo m = true) (ha : a < lo) :
    memByte m a = Config.unlistedByte := by
  induction m generalizing lo with
  | nil => rfl
  | cons c rest ih =>
    simp only [memWfFrom, Bool.and_eq_true, decide_eq_true_eq] at h
    rw [memByte, if_neg (by omega)]
    exact ih h.2 (by omega)

theorem memPlace_wfFrom {lo a : Nat} {m : List Host.Cell} (v : Byte) (h : memWfFrom lo m = true) (ha : lo ≤ a) :
    memWfFrom lo (memPlace m a v) = true := by
  induction m generalizing lo with
  | nil =>
    unfold memPlace
    split
    · rfl
    · simp [memWfFrom, *]
  | cons c rest ih =>
    obtain ⟨⟨hlo, hc⟩, hrest⟩ : (lo ≤ c.1 ∧ (c.2 != Config.unlistedByte) = true) ∧ memWfFrom (c.1 + 1) rest = true := by
      simpa [memWfFrom] using h
    unfold memPlace
    split
    · split
      · exact h
      · simp [memWfFrom, *]
    · split
      · split
        · exact memWfFrom_mono hrest (by omega)
        · subst a; simp [memWfFrom, *]
      · simp only [memWfFrom, hlo, hc, decide_true, Bool.and_self, Bool.true_and]
        exact ih hrest (by omega)

/-- Placing a byte keeps the canonical form. -/
theorem memPlace_wf {m : List Host.Cell} (a : Nat) (v : Byte) (h : memWf m = true) : memWf (memPlace m a v) = true :=
  memPlace_wfFrom v h (Nat.zero_le a)

/-- Placing several bytes keeps the canonical form. -/
theorem memPlaceAll_wf {m : List Host.Cell} (a : Nat) (vs : List Byte) (h : memWf m = true) :
    memWf (memPlaceAll m a vs) = true := by
  induction vs generalizing m a with
  | nil => exact h
  | cons v rest ih => exact ih (a + 1) (memPlace_wf a v h)

theorem memByte_memPlace_of_wfFrom {lo a : Nat} {m : List Host.Cell} (v : Byte) (x : Nat) (h : memWfFrom lo m = true) :
    memByte (memPlace m a v) x = if x = a then v else memByte m x := by
  induction m generalizing lo with
  | nil =>
    unfold memPlace
    split
    · subst v; simp [memByte]
    · simp [memByte, eq_comm]
  | cons c rest ih =>
    have hrest : memWfFrom (c.1 + 1) rest = true := by
      simp only [memWfFrom, Bool.and_eq_true] at h; exact h.2
    unfold memPlace
    split
    · rename_i hac
      split
      · subst v
        split
        · subst x
          rw [memByte, if_neg (by omega)]
          exact memByte_below hrest (by omega)
        · rfl
      · by_cases hx : x = a
        · simp [memByte, hx]
        · simp [memByte, hx, Ne.symm hx]
    · split
      · rename_i hac
        subst hac
        split
        · subst v
          by_cases hx : x = c.1
          · subst hx; rw [if_pos rfl]; exact memByte_below hrest (by omega)
          · simp [memByte, hx, Ne.symm hx]
        · by_cases hx : x = c.1
          · simp [memByte, hx]
          · simp [memByte, hx, Ne.symm hx]
      · simp only [memByte, ih hrest]
        by_cases hx : x = a
        · simp [hx]; omega
        · simp [hx]

/-- A read after a placement: the byte placed at its address, the old byte everywhere else. -/
theorem memByte_memPlace {m : List Host.Cell} (a x : Nat) (v : Byte) (h : memWf m = true) :
    memByte (memPlace m a v) x = if x = a then v else memByte m x :=
  memByte_memPlace_of_wfFrom v x h

/-- `MemRead` inside the ROM. -/
theorem memRead_of_lt {s : State} {a : Nat} (h : a < s.params.romSize) : memRead s a = .ok (memByte s.rom a) := by
  simp [memRead, h]

/-- `MemRead` past the ROM. -/
theorem memRead_of_le {s : State} {a : Nat} (h : s.params.romSize ≤ a) : memRead s a = .error (.addrRange a) := by
  simp [memRead]; omega

/-- All that a `MemRead` can answer. -/
theorem memRead_cases (s : State) (a : Int) :
    (0 ≤ a ∧ a < s.params.romSize ∧ memRead s a = .ok (memByte s.rom a.toNat)) ∨
    (¬ (0 ≤ a ∧ a < s.params.romSize) ∧ memRead s a = .error (.addrRange a)) := by
  unfold memRead
  split
  · rename_i h; exact .inl ⟨h.1, h.2, rfl⟩
  · rename_i h; exact .inr ⟨h, rfl⟩

/-- The read of a buffer's final byte inside the ROM. -/
theorem memRead_finalAddr {s : State} {d : Descriptor} (h1 : 1 ≤ d.base.toNat + d.len.toNat)
    (h2 : d.base.toNat + d.len.toNat ≤ s.params.romSize) :
    memRead s d.finalAddr = .ok (memByte s.rom (d.base.toNat + d.len.toNat - 1)) := by
  have h : d.finalAddr = ((d.base.toNat + d.len.toNat - 1 : Nat) : Int) := by
    unfold Descriptor.finalAddr; omega
  rw [h]
  exact memRead_of_lt (by omega)

end Sys2Proof.Machine
end

