-- ==== Sys2Proof/Laws/Operands.lean ====
section
/-! SUPPORT. What the checks of the commands and the reads of an Advance can answer, so that no later proof unfolds them. -/

namespace Sys2Proof.Machine

/-- A buffer that `CheckBuf` accepts. -/
theorem checkBuf_ok {p : Params} {b n : Nat} {u : Unit} (h : checkBuf p b n = .ok u) :
    1 ≤ n ∧ n ≤ Config.lenMax ∧ b + n ≤ p.romSize := by
  unfold checkBuf at h
  split at h; · cases h
  split at h; · cases h
  split at h; · cases h
  omega

/-- `CheckBuf` on a descriptor that is in range. -/
theorem checkBuf_of_ok {p : Params} {d : Descriptor} (h : d.ok p) :
    checkBuf p d.base.toNat d.len.toNat = .ok () := by
  obtain ⟨h1, h2, h3⟩ := h
  unfold checkBuf
  rw [if_neg (by omega), if_neg (by omega), if_neg (by omega)]

/-- A rate that the timer takes. -/
theorem checkRate_ok {p : Params} {r : Word} {u : Unit} (h : checkRate p r = .ok u) :
    r.toNat ≠ 0 ∧ p.periodOk (tickPeriodOf p r) := by
  unfold checkRate at h
  split at h; · cases h
  split at h; · cases h
  unfold Params.periodOk
  omega

/-- The rate check on a rate in range. -/
theorem checkRate_of_ok {p : Params} {r : Word} (h0 : r.toNat ≠ 0) (h : p.periodOk (tickPeriodOf p r)) :
    checkRate p r = .ok () := by
  obtain ⟨h1, h2⟩ := h
  unfold checkRate
  rw [if_neg h0, if_neg (by omega)]

/-- What START's checks accept. -/
theorem startChecks_ok {s : State} {a0 a1 a2 : Word} {d : Descriptor} (h : startChecks s a0 a1 a2 = .ok d) :
    d.base.toNat = a0.toNat ∧ d.len.toNat = a1.toNat ∧ d.ok s.params ∧ a2.toNat ≠ 0 ∧
      s.params.periodOk (tickPeriodOf s.params a2) := by
  unfold startChecks at h
  split at h; · cases h
  rename_i ha
  cases hb : checkBuf s.params a0.toNat a1.toNat with
  | error f => rw [hb] at h; cases h
  | ok u =>
    cases hr : checkRate s.params a2 with
    | error f => rw [hb, hr] at h; cases h
    | ok u' =>
      rw [hb, hr] at h
      cases h
      have hb' := checkBuf_ok hb
      have hr' := checkRate_ok hr
      simp only [Config.addrSpace, Config.lenMax] at ha hb'
      have e0 : (halfOf a0.toNat).toNat = a0.toNat := by simp; omega
      have e1 : (halfOf a1.toNat).toNat = a1.toNat := by simp; omega
      refine ⟨e0, e1, ⟨?_, ?_, ?_⟩, hr'.1, hr'.2⟩
      · show 1 ≤ (halfOf a1.toNat).toNat; omega
      · show (halfOf a1.toNat).toNat ≤ 32767; omega
      · show (halfOf a0.toNat).toNat + (halfOf a1.toNat).toNat ≤ _; omega

/-- What START_PL's checks accept. -/
theorem plChecks_ok {s : State} {a0 a1 a2 : Word} {d : Descriptor} (h : plChecks s a0 a1 a2 = .ok d) :
    a1.toNat ≤ Config.plMax ∧ a0.toNat < Config.addrSpace ∧ a0.toNat + 4 * a1.toNat ≤ s.params.romSize ∧
      descRead s a0.toNat 0 = .ok d ∧ d.ok s.params ∧ a2.toNat ≠ 0 ∧ s.params.periodOk (tickPeriodOf s.params a2) := by
  unfold plChecks at h
  split at h; · cases h
  split at h; · cases h
  split at h; · cases h
  cases hd : descRead s a0.toNat 0 with
  | error f => rw [hd] at h; cases h
  | ok e =>
    cases hb : checkBuf s.params e.base.toNat e.len.toNat with
    | error f => rw [hd] at h; simp only [bind, Except.bind, hb] at h; cases h
    | ok u =>
      cases hr : checkRate s.params a2 with
      | error f => rw [hd] at h; simp only [bind, Except.bind, hb, hr] at h; cases h
      | ok u' =>
        rw [hd] at h
        simp only [bind, Except.bind, hb, hr, pure, Except.pure] at h
        cases h
        exact ⟨by omega, by omega, by omega, rfl, checkBuf_ok hb, checkRate_ok hr⟩

/-- What the reads of an Advance give when they succeed. -/
theorem advanceReads_ok {s : State} {d : Descriptor} {first final : Byte}
    (h : advanceReads s = .ok (d, first, final)) :
    ∃ p, s.plBase = some p ∧ descRead s p.toNat (s.plPos.toNat + 1) = .ok d ∧ d.ok s.params ∧
      first = memByte s.rom d.base.toNat ∧ final = memByte s.rom (d.base.toNat + d.len.toNat - 1) := by
  unfold advanceReads at h
  split at h
  · cases h
  rename_i p hp
  cases hd : descRead s p.toNat (s.plPos.toNat + 1) with
  | error f => rw [hd] at h; cases h
  | ok e =>
    cases hb : checkBuf s.params e.base.toNat e.len.toNat with
    | error f => rw [hd] at h; simp only [bind, Except.bind, hb] at h; cases h
    | ok u =>
      have hb' := checkBuf_ok hb
      have r1 : memRead s e.base.toNat = .ok (memByte s.rom e.base.toNat) := memRead_of_lt (by omega)
      have r2 := memRead_finalAddr (s := s) (d := e) (by omega) hb'.2.2
      rw [hd] at h
      simp only [bind, Except.bind, hb, r1, r2, pure, Except.pure] at h
      cases h
      exact ⟨p, hp, hd, hb', rfl, rfl⟩

end Sys2Proof.Machine
end

