-- ==== Sys2Proof/Laws/State.lean ====
section
/-! SUPPORT. For each shared update of the state, what each field of the updated state is: one lemma per field. -/

namespace Sys2Proof.Machine

@[simp] theorem raiseFault_playing (f : Fault) (s : State) :
    (raiseFault f s).playing = s.playing := rfl
@[simp] theorem raiseFault_act (f : Fault) (s : State) :
    (raiseFault f s).act = s.act := rfl
@[simp] theorem raiseFault_offset (f : Fault) (s : State) :
    (raiseFault f s).offset = s.offset := rfl
@[simp] theorem raiseFault_last (f : Fault) (s : State) :
    (raiseFault f s).last = s.last := rfl
@[simp] theorem raiseFault_plBase (f : Fault) (s : State) :
    (raiseFault f s).plBase = s.plBase := rfl
@[simp] theorem raiseFault_plLen (f : Fault) (s : State) :
    (raiseFault f s).plLen = s.plLen := rfl
@[simp] theorem raiseFault_plPos (f : Fault) (s : State) :
    (raiseFault f s).plPos = s.plPos := rfl
@[simp] theorem raiseFault_tickEn (f : Fault) (s : State) :
    (raiseFault f s).tickEn = s.tickEn := rfl
@[simp] theorem raiseFault_tickPeriod (f : Fault) (s : State) :
    (raiseFault f s).tickPeriod = s.tickPeriod := rfl
@[simp] theorem raiseFault_pwmEn (f : Fault) (s : State) :
    (raiseFault f s).pwmEn = s.pwmEn := rfl
@[simp] theorem raiseFault_pinActive (f : Fault) (s : State) :
    (raiseFault f s).pinActive = s.pinActive := rfl
@[simp] theorem raiseFault_duty (f : Fault) (s : State) :
    (raiseFault f s).duty = s.duty := rfl
@[simp] theorem raiseFault_arg0 (f : Fault) (s : State) :
    (raiseFault f s).arg0 = s.arg0 := rfl
@[simp] theorem raiseFault_arg1 (f : Fault) (s : State) :
    (raiseFault f s).arg1 = s.arg1 := rfl
@[simp] theorem raiseFault_arg2 (f : Fault) (s : State) :
    (raiseFault f s).arg2 = s.arg2 := rfl
@[simp] theorem raiseFault_result (f : Fault) (s : State) :
    (raiseFault f s).result = s.result := rfl
@[simp] theorem raiseFault_cmd (f : Fault) (s : State) :
    (raiseFault f s).cmd = s.cmd := rfl
@[simp] theorem raiseFault_fault (f : Fault) (s : State) :
    (raiseFault f s).fault = some f := rfl
@[simp] theorem raiseFault_refused (f : Fault) (s : State) :
    (raiseFault f s).refused = s.refused := rfl
@[simp] theorem raiseFault_log (f : Fault) (s : State) :
    (raiseFault f s).log = s.log := rfl
@[simp] theorem raiseFault_params (f : Fault) (s : State) :
    (raiseFault f s).params = s.params := rfl
@[simp] theorem raiseFault_rom (f : Fault) (s : State) :
    (raiseFault f s).rom = s.rom := rfl
@[simp] theorem raiseFault_prog (f : Fault) (s : State) :
    (raiseFault f s).prog = s.prog := rfl
@[simp] theorem raiseFault_sched (f : Fault) (s : State) :
    (raiseFault f s).sched = s.sched := rfl
@[simp] theorem raiseFault_reads (f : Fault) (s : State) :
    (raiseFault f s).reads = s.reads := rfl
@[simp] theorem raiseFault_draws (f : Fault) (s : State) :
    (raiseFault f s).draws = s.draws := rfl

@[simp] theorem refuse_playing (r : RefuseReason) (s : State) :
    (refuse r s).playing = s.playing := rfl
@[simp] theorem refuse_act (r : RefuseReason) (s : State) :
    (refuse r s).act = s.act := rfl
@[simp] theorem refuse_offset (r : RefuseReason) (s : State) :
    (refuse r s).offset = s.offset := rfl
@[simp] theorem refuse_last (r : RefuseReason) (s : State) :
    (refuse r s).last = s.last := rfl
@[simp] theorem refuse_plBase (r : RefuseReason) (s : State) :
    (refuse r s).plBase = s.plBase := rfl
@[simp] theorem refuse_plLen (r : RefuseReason) (s : State) :
    (refuse r s).plLen = s.plLen := rfl
@[simp] theorem refuse_plPos (r : RefuseReason) (s : State) :
    (refuse r s).plPos = s.plPos := rfl
@[simp] theorem refuse_tickEn (r : RefuseReason) (s : State) :
    (refuse r s).tickEn = s.tickEn := rfl
@[simp] theorem refuse_tickPeriod (r : RefuseReason) (s : State) :
    (refuse r s).tickPeriod = s.tickPeriod := rfl
@[simp] theorem refuse_pwmEn (r : RefuseReason) (s : State) :
    (refuse r s).pwmEn = s.pwmEn := rfl
@[simp] theorem refuse_pinActive (r : RefuseReason) (s : State) :
    (refuse r s).pinActive = s.pinActive := rfl
@[simp] theorem refuse_duty (r : RefuseReason) (s : State) :
    (refuse r s).duty = s.duty := rfl
@[simp] theorem refuse_arg0 (r : RefuseReason) (s : State) :
    (refuse r s).arg0 = s.arg0 := rfl
@[simp] theorem refuse_arg1 (r : RefuseReason) (s : State) :
    (refuse r s).arg1 = s.arg1 := rfl
@[simp] theorem refuse_arg2 (r : RefuseReason) (s : State) :
    (refuse r s).arg2 = s.arg2 := rfl
@[simp] theorem refuse_result (r : RefuseReason) (s : State) :
    (refuse r s).result = s.result := rfl
@[simp] theorem refuse_cmd (r : RefuseReason) (s : State) :
    (refuse r s).cmd = s.cmd := rfl
@[simp] theorem refuse_fault (r : RefuseReason) (s : State) :
    (refuse r s).fault = s.fault := rfl
@[simp] theorem refuse_refused (r : RefuseReason) (s : State) :
    (refuse r s).refused = some r := rfl
@[simp] theorem refuse_log (r : RefuseReason) (s : State) :
    (refuse r s).log = s.log := rfl
@[simp] theorem refuse_params (r : RefuseReason) (s : State) :
    (refuse r s).params = s.params := rfl
@[simp] theorem refuse_rom (r : RefuseReason) (s : State) :
    (refuse r s).rom = s.rom := rfl
@[simp] theorem refuse_prog (r : RefuseReason) (s : State) :
    (refuse r s).prog = s.prog := rfl
@[simp] theorem refuse_sched (r : RefuseReason) (s : State) :
    (refuse r s).sched = s.sched := rfl
@[simp] theorem refuse_reads (r : RefuseReason) (s : State) :
    (refuse r s).reads = s.reads := rfl
@[simp] theorem refuse_draws (r : RefuseReason) (s : State) :
    (refuse r s).draws = s.draws := rfl

@[simp] theorem emit_playing (e : Event) (s : State) :
    (emit e s).playing = s.playing := rfl
@[simp] theorem emit_act (e : Event) (s : State) :
    (emit e s).act = s.act := rfl
@[simp] theorem emit_offset (e : Event) (s : State) :
    (emit e s).offset = s.offset := rfl
@[simp] theorem emit_last (e : Event) (s : State) :
    (emit e s).last = s.last := rfl
@[simp] theorem emit_plBase (e : Event) (s : State) :
    (emit e s).plBase = s.plBase := rfl
@[simp] theorem emit_plLen (e : Event) (s : State) :
    (emit e s).plLen = s.plLen := rfl
@[simp] theorem emit_plPos (e : Event) (s : State) :
    (emit e s).plPos = s.plPos := rfl
@[simp] theorem emit_tickEn (e : Event) (s : State) :
    (emit e s).tickEn = s.tickEn := rfl
@[simp] theorem emit_tickPeriod (e : Event) (s : State) :
    (emit e s).tickPeriod = s.tickPeriod := rfl
@[simp] theorem emit_pwmEn (e : Event) (s : State) :
    (emit e s).pwmEn = s.pwmEn := rfl
@[simp] theorem emit_pinActive (e : Event) (s : State) :
    (emit e s).pinActive = s.pinActive := rfl
@[simp] theorem emit_duty (e : Event) (s : State) :
    (emit e s).duty = s.duty := rfl
@[simp] theorem emit_arg0 (e : Event) (s : State) :
    (emit e s).arg0 = s.arg0 := rfl
@[simp] theorem emit_arg1 (e : Event) (s : State) :
    (emit e s).arg1 = s.arg1 := rfl
@[simp] theorem emit_arg2 (e : Event) (s : State) :
    (emit e s).arg2 = s.arg2 := rfl
@[simp] theorem emit_result (e : Event) (s : State) :
    (emit e s).result = s.result := rfl
@[simp] theorem emit_cmd (e : Event) (s : State) :
    (emit e s).cmd = s.cmd := rfl
@[simp] theorem emit_fault (e : Event) (s : State) :
    (emit e s).fault = s.fault := rfl
@[simp] theorem emit_refused (e : Event) (s : State) :
    (emit e s).refused = s.refused := rfl
@[simp] theorem emit_log (e : Event) (s : State) :
    (emit e s).log = s.log ++ [e] := rfl
@[simp] theorem emit_params (e : Event) (s : State) :
    (emit e s).params = s.params := rfl
@[simp] theorem emit_rom (e : Event) (s : State) :
    (emit e s).rom = s.rom := rfl
@[simp] theorem emit_prog (e : Event) (s : State) :
    (emit e s).prog = s.prog := rfl
@[simp] theorem emit_sched (e : Event) (s : State) :
    (emit e s).sched = s.sched := rfl
@[simp] theorem emit_reads (e : Event) (s : State) :
    (emit e s).reads = s.reads := rfl
@[simp] theorem emit_draws (e : Event) (s : State) :
    (emit e s).draws = s.draws := rfl

@[simp] theorem clearPlaylist_playing (s : State) :
    (clearPlaylist s).playing = s.playing := rfl
@[simp] theorem clearPlaylist_act (s : State) :
    (clearPlaylist s).act = s.act := rfl
@[simp] theorem clearPlaylist_offset (s : State) :
    (clearPlaylist s).offset = s.offset := rfl
@[simp] theorem clearPlaylist_last (s : State) :
    (clearPlaylist s).last = s.last := rfl
@[simp] theorem clearPlaylist_plBase (s : State) :
    (clearPlaylist s).plBase = none := rfl
@[simp] theorem clearPlaylist_plLen (s : State) :
    (clearPlaylist s).plLen = 0 := rfl
@[simp] theorem clearPlaylist_plPos (s : State) :
    (clearPlaylist s).plPos = 0 := rfl
@[simp] theorem clearPlaylist_tickEn (s : State) :
    (clearPlaylist s).tickEn = s.tickEn := rfl
@[simp] theorem clearPlaylist_tickPeriod (s : State) :
    (clearPlaylist s).tickPeriod = s.tickPeriod := rfl
@[simp] theorem clearPlaylist_pwmEn (s : State) :
    (clearPlaylist s).pwmEn = s.pwmEn := rfl
@[simp] theorem clearPlaylist_pinActive (s : State) :
    (clearPlaylist s).pinActive = s.pinActive := rfl
@[simp] theorem clearPlaylist_duty (s : State) :
    (clearPlaylist s).duty = s.duty := rfl
@[simp] theorem clearPlaylist_arg0 (s : State) :
    (clearPlaylist s).arg0 = s.arg0 := rfl
@[simp] theorem clearPlaylist_arg1 (s : State) :
    (clearPlaylist s).arg1 = s.arg1 := rfl
@[simp] theorem clearPlaylist_arg2 (s : State) :
    (clearPlaylist s).arg2 = s.arg2 := rfl
@[simp] theorem clearPlaylist_result (s : State) :
    (clearPlaylist s).result = s.result := rfl
@[simp] theorem clearPlaylist_cmd (s : State) :
    (clearPlaylist s).cmd = s.cmd := rfl
@[simp] theorem clearPlaylist_fault (s : State) :
    (clearPlaylist s).fault = s.fault := rfl
@[simp] theorem clearPlaylist_refused (s : State) :
    (clearPlaylist s).refused = s.refused := rfl
@[simp] theorem clearPlaylist_log (s : State) :
    (clearPlaylist s).log = s.log := rfl
@[simp] theorem clearPlaylist_params (s : State) :
    (clearPlaylist s).params = s.params := rfl
@[simp] theorem clearPlaylist_rom (s : State) :
    (clearPlaylist s).rom = s.rom := rfl
@[simp] theorem clearPlaylist_prog (s : State) :
    (clearPlaylist s).prog = s.prog := rfl
@[simp] theorem clearPlaylist_sched (s : State) :
    (clearPlaylist s).sched = s.sched := rfl
@[simp] theorem clearPlaylist_reads (s : State) :
    (clearPlaylist s).reads = s.reads := rfl
@[simp] theorem clearPlaylist_draws (s : State) :
    (clearPlaylist s).draws = s.draws := rfl

@[simp] theorem loadBuffer_playing (d : Descriptor) (s : State) :
    (loadBuffer d s).playing = s.playing := rfl
@[simp] theorem loadBuffer_act (d : Descriptor) (s : State) :
    (loadBuffer d s).act = some d := rfl
@[simp] theorem loadBuffer_offset (d : Descriptor) (s : State) :
    (loadBuffer d s).offset = 0 := rfl
@[simp] theorem loadBuffer_last (d : Descriptor) (s : State) :
    (loadBuffer d s).last = s.last := rfl
@[simp] theorem loadBuffer_plBase (d : Descriptor) (s : State) :
    (loadBuffer d s).plBase = s.plBase := rfl
@[simp] theorem loadBuffer_plLen (d : Descriptor) (s : State) :
    (loadBuffer d s).plLen = s.plLen := rfl
@[simp] theorem loadBuffer_plPos (d : Descriptor) (s : State) :
    (loadBuffer d s).plPos = s.plPos := rfl
@[simp] theorem loadBuffer_tickEn (d : Descriptor) (s : State) :
    (loadBuffer d s).tickEn = s.tickEn := rfl
@[simp] theorem loadBuffer_tickPeriod (d : Descriptor) (s : State) :
    (loadBuffer d s).tickPeriod = s.tickPeriod := rfl
@[simp] theorem loadBuffer_pwmEn (d : Descriptor) (s : State) :
    (loadBuffer d s).pwmEn = s.pwmEn := rfl
@[simp] theorem loadBuffer_pinActive (d : Descriptor) (s : State) :
    (loadBuffer d s).pinActive = s.pinActive := rfl
@[simp] theorem loadBuffer_duty (d : Descriptor) (s : State) :
    (loadBuffer d s).duty = s.duty := rfl
@[simp] theorem loadBuffer_arg0 (d : Descriptor) (s : State) :
    (loadBuffer d s).arg0 = s.arg0 := rfl
@[simp] theorem loadBuffer_arg1 (d : Descriptor) (s : State) :
    (loadBuffer d s).arg1 = s.arg1 := rfl
@[simp] theorem loadBuffer_arg2 (d : Descriptor) (s : State) :
    (loadBuffer d s).arg2 = s.arg2 := rfl
@[simp] theorem loadBuffer_result (d : Descriptor) (s : State) :
    (loadBuffer d s).result = s.result := rfl
@[simp] theorem loadBuffer_cmd (d : Descriptor) (s : State) :
    (loadBuffer d s).cmd = s.cmd := rfl
@[simp] theorem loadBuffer_fault (d : Descriptor) (s : State) :
    (loadBuffer d s).fault = s.fault := rfl
@[simp] theorem loadBuffer_refused (d : Descriptor) (s : State) :
    (loadBuffer d s).refused = s.refused := rfl
@[simp] theorem loadBuffer_log (d : Descriptor) (s : State) :
    (loadBuffer d s).log = s.log := rfl
@[simp] theorem loadBuffer_params (d : Descriptor) (s : State) :
    (loadBuffer d s).params = s.params := rfl
@[simp] theorem loadBuffer_rom (d : Descriptor) (s : State) :
    (loadBuffer d s).rom = s.rom := rfl
@[simp] theorem loadBuffer_prog (d : Descriptor) (s : State) :
    (loadBuffer d s).prog = s.prog := rfl
@[simp] theorem loadBuffer_sched (d : Descriptor) (s : State) :
    (loadBuffer d s).sched = s.sched := rfl
@[simp] theorem loadBuffer_reads (d : Descriptor) (s : State) :
    (loadBuffer d s).reads = s.reads := rfl
@[simp] theorem loadBuffer_draws (d : Descriptor) (s : State) :
    (loadBuffer d s).draws = s.draws := rfl

@[simp] theorem output_playing (v : Byte) (k : Nat) (s : State) :
    (output v k s).playing = s.playing := rfl
@[simp] theorem output_act (v : Byte) (k : Nat) (s : State) :
    (output v k s).act = s.act := rfl
@[simp] theorem output_offset (v : Byte) (k : Nat) (s : State) :
    (output v k s).offset = halfOf k := rfl
@[simp] theorem output_last (v : Byte) (k : Nat) (s : State) :
    (output v k s).last = s.last := rfl
@[simp] theorem output_plBase (v : Byte) (k : Nat) (s : State) :
    (output v k s).plBase = s.plBase := rfl
@[simp] theorem output_plLen (v : Byte) (k : Nat) (s : State) :
    (output v k s).plLen = s.plLen := rfl
@[simp] theorem output_plPos (v : Byte) (k : Nat) (s : State) :
    (output v k s).plPos = s.plPos := rfl
@[simp] theorem output_tickEn (v : Byte) (k : Nat) (s : State) :
    (output v k s).tickEn = s.tickEn := rfl
@[simp] theorem output_tickPeriod (v : Byte) (k : Nat) (s : State) :
    (output v k s).tickPeriod = s.tickPeriod := rfl
@[simp] theorem output_pwmEn (v : Byte) (k : Nat) (s : State) :
    (output v k s).pwmEn = s.pwmEn := rfl
@[simp] theorem output_pinActive (v : Byte) (k : Nat) (s : State) :
    (output v k s).pinActive = s.pinActive := rfl
@[simp] theorem output_duty (v : Byte) (k : Nat) (s : State) :
    (output v k s).duty = v := rfl
@[simp] theorem output_arg0 (v : Byte) (k : Nat) (s : State) :
    (output v k s).arg0 = s.arg0 := rfl
@[simp] theorem output_arg1 (v : Byte) (k : Nat) (s : State) :
    (output v k s).arg1 = s.arg1 := rfl
@[simp] theorem output_arg2 (v : Byte) (k : Nat) (s : State) :
    (output v k s).arg2 = s.arg2 := rfl
@[simp] theorem output_result (v : Byte) (k : Nat) (s : State) :
    (output v k s).result = s.result := rfl
@[simp] theorem output_cmd (v : Byte) (k : Nat) (s : State) :
    (output v k s).cmd = s.cmd := rfl
@[simp] theorem output_fault (v : Byte) (k : Nat) (s : State) :
    (output v k s).fault = s.fault := rfl
@[simp] theorem output_refused (v : Byte) (k : Nat) (s : State) :
    (output v k s).refused = s.refused := rfl
@[simp] theorem output_log (v : Byte) (k : Nat) (s : State) :
    (output v k s).log = s.log ++ [.duty v] := rfl
@[simp] theorem output_params (v : Byte) (k : Nat) (s : State) :
    (output v k s).params = s.params := rfl
@[simp] theorem output_rom (v : Byte) (k : Nat) (s : State) :
    (output v k s).rom = s.rom := rfl
@[simp] theorem output_prog (v : Byte) (k : Nat) (s : State) :
    (output v k s).prog = s.prog := rfl
@[simp] theorem output_sched (v : Byte) (k : Nat) (s : State) :
    (output v k s).sched = s.sched := rfl
@[simp] theorem output_reads (v : Byte) (k : Nat) (s : State) :
    (output v k s).reads = s.reads := rfl
@[simp] theorem output_draws (v : Byte) (k : Nat) (s : State) :
    (output v k s).draws = s.draws := rfl

@[simp] theorem openOutput_playing (p : Nat) (s : State) :
    (openOutput p s).playing = s.playing := rfl
@[simp] theorem openOutput_act (p : Nat) (s : State) :
    (openOutput p s).act = s.act := rfl
@[simp] theorem openOutput_offset (p : Nat) (s : State) :
    (openOutput p s).offset = s.offset := rfl
@[simp] theorem openOutput_last (p : Nat) (s : State) :
    (openOutput p s).last = s.last := rfl
@[simp] theorem openOutput_plBase (p : Nat) (s : State) :
    (openOutput p s).plBase = s.plBase := rfl
@[simp] theorem openOutput_plLen (p : Nat) (s : State) :
    (openOutput p s).plLen = s.plLen := rfl
@[simp] theorem openOutput_plPos (p : Nat) (s : State) :
    (openOutput p s).plPos = s.plPos := rfl
@[simp] theorem openOutput_tickEn (p : Nat) (s : State) :
    (openOutput p s).tickEn = true := rfl
@[simp] theorem openOutput_tickPeriod (p : Nat) (s : State) :
    (openOutput p s).tickPeriod = some p := rfl
@[simp] theorem openOutput_pwmEn (p : Nat) (s : State) :
    (openOutput p s).pwmEn = true := rfl
@[simp] theorem openOutput_pinActive (p : Nat) (s : State) :
    (openOutput p s).pinActive = true := rfl
@[simp] theorem openOutput_duty (p : Nat) (s : State) :
    (openOutput p s).duty = s.duty := rfl
@[simp] theorem openOutput_arg0 (p : Nat) (s : State) :
    (openOutput p s).arg0 = s.arg0 := rfl
@[simp] theorem openOutput_arg1 (p : Nat) (s : State) :
    (openOutput p s).arg1 = s.arg1 := rfl
@[simp] theorem openOutput_arg2 (p : Nat) (s : State) :
    (openOutput p s).arg2 = s.arg2 := rfl
@[simp] theorem openOutput_result (p : Nat) (s : State) :
    (openOutput p s).result = s.result := rfl
@[simp] theorem openOutput_cmd (p : Nat) (s : State) :
    (openOutput p s).cmd = s.cmd := rfl
@[simp] theorem openOutput_fault (p : Nat) (s : State) :
    (openOutput p s).fault = s.fault := rfl
@[simp] theorem openOutput_refused (p : Nat) (s : State) :
    (openOutput p s).refused = s.refused := rfl
@[simp] theorem openOutput_log (p : Nat) (s : State) :
    (openOutput p s).log = s.log ++ [.start p] := rfl
@[simp] theorem openOutput_params (p : Nat) (s : State) :
    (openOutput p s).params = s.params := rfl
@[simp] theorem openOutput_rom (p : Nat) (s : State) :
    (openOutput p s).rom = s.rom := rfl
@[simp] theorem openOutput_prog (p : Nat) (s : State) :
    (openOutput p s).prog = s.prog := rfl
@[simp] theorem openOutput_sched (p : Nat) (s : State) :
    (openOutput p s).sched = s.sched := rfl
@[simp] theorem openOutput_reads (p : Nat) (s : State) :
    (openOutput p s).reads = s.reads := rfl
@[simp] theorem openOutput_draws (p : Nat) (s : State) :
    (openOutput p s).draws = s.draws := rfl

@[simp] theorem closeOutput_playing (s : State) :
    (closeOutput s).playing = s.playing := rfl
@[simp] theorem closeOutput_act (s : State) :
    (closeOutput s).act = s.act := rfl
@[simp] theorem closeOutput_offset (s : State) :
    (closeOutput s).offset = s.offset := rfl
@[simp] theorem closeOutput_last (s : State) :
    (closeOutput s).last = s.last := rfl
@[simp] theorem closeOutput_plBase (s : State) :
    (closeOutput s).plBase = s.plBase := rfl
@[simp] theorem closeOutput_plLen (s : State) :
    (closeOutput s).plLen = s.plLen := rfl
@[simp] theorem closeOutput_plPos (s : State) :
    (closeOutput s).plPos = s.plPos := rfl
@[simp] theorem closeOutput_tickEn (s : State) :
    (closeOutput s).tickEn = false := rfl
@[simp] theorem closeOutput_tickPeriod (s : State) :
    (closeOutput s).tickPeriod = s.tickPeriod := rfl
@[simp] theorem closeOutput_pwmEn (s : State) :
    (closeOutput s).pwmEn = false := rfl
@[simp] theorem closeOutput_pinActive (s : State) :
    (closeOutput s).pinActive = false := rfl
@[simp] theorem closeOutput_duty (s : State) :
    (closeOutput s).duty = s.duty := rfl
@[simp] theorem closeOutput_arg0 (s : State) :
    (closeOutput s).arg0 = s.arg0 := rfl
@[simp] theorem closeOutput_arg1 (s : State) :
    (closeOutput s).arg1 = s.arg1 := rfl
@[simp] theorem closeOutput_arg2 (s : State) :
    (closeOutput s).arg2 = s.arg2 := rfl
@[simp] theorem closeOutput_result (s : State) :
    (closeOutput s).result = s.result := rfl
@[simp] theorem closeOutput_cmd (s : State) :
    (closeOutput s).cmd = s.cmd := rfl
@[simp] theorem closeOutput_fault (s : State) :
    (closeOutput s).fault = s.fault := rfl
@[simp] theorem closeOutput_refused (s : State) :
    (closeOutput s).refused = s.refused := rfl
@[simp] theorem closeOutput_log (s : State) :
    (closeOutput s).log = s.log ++ [.stop] := rfl
@[simp] theorem closeOutput_params (s : State) :
    (closeOutput s).params = s.params := rfl
@[simp] theorem closeOutput_rom (s : State) :
    (closeOutput s).rom = s.rom := rfl
@[simp] theorem closeOutput_prog (s : State) :
    (closeOutput s).prog = s.prog := rfl
@[simp] theorem closeOutput_sched (s : State) :
    (closeOutput s).sched = s.sched := rfl
@[simp] theorem closeOutput_reads (s : State) :
    (closeOutput s).reads = s.reads := rfl
@[simp] theorem closeOutput_draws (s : State) :
    (closeOutput s).draws = s.draws := rfl

@[simp] theorem latchCmd_playing (op : CmdOp) (d : Descriptor) (s : State) :
    (latchCmd op d s).playing = s.playing := rfl
@[simp] theorem latchCmd_act (op : CmdOp) (d : Descriptor) (s : State) :
    (latchCmd op d s).act = s.act := rfl
@[simp] theorem latchCmd_offset (op : CmdOp) (d : Descriptor) (s : State) :
    (latchCmd op d s).offset = s.offset := rfl
@[simp] theorem latchCmd_last (op : CmdOp) (d : Descriptor) (s : State) :
    (latchCmd op d s).last = s.last := rfl
@[simp] theorem latchCmd_plBase (op : CmdOp) (d : Descriptor) (s : State) :
    (latchCmd op d s).plBase = s.plBase := rfl
@[simp] theorem latchCmd_plLen (op : CmdOp) (d : Descriptor) (s : State) :
    (latchCmd op d s).plLen = s.plLen := rfl
@[simp] theorem latchCmd_plPos (op : CmdOp) (d : Descriptor) (s : State) :
    (latchCmd op d s).plPos = s.plPos := rfl
@[simp] theorem latchCmd_tickEn (op : CmdOp) (d : Descriptor) (s : State) :
    (latchCmd op d s).tickEn = s.tickEn := rfl
@[simp] theorem latchCmd_tickPeriod (op : CmdOp) (d : Descriptor) (s : State) :
    (latchCmd op d s).tickPeriod = s.tickPeriod := rfl
@[simp] theorem latchCmd_pwmEn (op : CmdOp) (d : Descriptor) (s : State) :
    (latchCmd op d s).pwmEn = s.pwmEn := rfl
@[simp] theorem latchCmd_pinActive (op : CmdOp) (d : Descriptor) (s : State) :
    (latchCmd op d s).pinActive = s.pinActive := rfl
@[simp] theorem latchCmd_duty (op : CmdOp) (d : Descriptor) (s : State) :
    (latchCmd op d s).duty = s.duty := rfl
@[simp] theorem latchCmd_arg0 (op : CmdOp) (d : Descriptor) (s : State) :
    (latchCmd op d s).arg0 = s.arg0 := rfl
@[simp] theorem latchCmd_arg1 (op : CmdOp) (d : Descriptor) (s : State) :
    (latchCmd op d s).arg1 = s.arg1 := rfl
@[simp] theorem latchCmd_arg2 (op : CmdOp) (d : Descriptor) (s : State) :
    (latchCmd op d s).arg2 = s.arg2 := rfl
@[simp] theorem latchCmd_result (op : CmdOp) (d : Descriptor) (s : State) :
    (latchCmd op d s).result = s.result := rfl
@[simp] theorem latchCmd_cmd (op : CmdOp) (d : Descriptor) (s : State) :
    (latchCmd op d s).cmd = some { op := op, k := .s2, a0 := s.arg0, a1 := s.arg1, a2 := s.arg2, buf := d } := rfl
@[simp] theorem latchCmd_fault (op : CmdOp) (d : Descriptor) (s : State) :
    (latchCmd op d s).fault = s.fault := rfl
@[simp] theorem latchCmd_refused (op : CmdOp) (d : Descriptor) (s : State) :
    (latchCmd op d s).refused = s.refused := rfl
@[simp] theorem latchCmd_log (op : CmdOp) (d : Descriptor) (s : State) :
    (latchCmd op d s).log = s.log := rfl
@[simp] theorem latchCmd_params (op : CmdOp) (d : Descriptor) (s : State) :
    (latchCmd op d s).params = s.params := rfl
@[simp] theorem latchCmd_rom (op : CmdOp) (d : Descriptor) (s : State) :
    (latchCmd op d s).rom = s.rom := rfl
@[simp] theorem latchCmd_prog (op : CmdOp) (d : Descriptor) (s : State) :
    (latchCmd op d s).prog = s.prog := rfl
@[simp] theorem latchCmd_sched (op : CmdOp) (d : Descriptor) (s : State) :
    (latchCmd op d s).sched = s.sched := rfl
@[simp] theorem latchCmd_reads (op : CmdOp) (d : Descriptor) (s : State) :
    (latchCmd op d s).reads = s.reads := rfl
@[simp] theorem latchCmd_draws (op : CmdOp) (d : Descriptor) (s : State) :
    (latchCmd op d s).draws = s.draws := rfl

@[simp] theorem stopOffset_some (s : State) (d : Descriptor) (h : s.act = some d) :
    stopOffset s = { s with offset := d.len } := by
  simp [stopOffset, h]

theorem stopOffset_eq (s : State) :
    stopOffset s = { s with offset := (stopOffset s).offset, draws := (stopOffset s).draws } := by
  unfold stopOffset; split <;> rfl

end Sys2Proof.Machine
end

