-- ==== Sys2Proof/Laws/Exec.lean ====
section
/-! SUPPORT. Everything an instruction can do when it answers a next state: one inversion lemma for TICK, one for START and
START_PL. The other three are equations by definition. -/

namespace Sys2Proof.Machine

/-- The five completing cases of a TICK (40_tick.md R62 to R66). -/
inductive TickCase (s : State) : State → Prop where
  | idle (hp : s.playing = false) : TickCase s s
  | stream (d : Descriptor) (v : Byte) (hp : s.playing = true) (ha : s.act = some d)
      (hlt : s.offset.toNat < d.len.toNat) (hr : memRead s (d.base.toNat + s.offset.toNat : Nat) = .ok v) :
      TickCase s (output v (s.offset.toNat + 1) s)
  | advance (d e : Descriptor) (first final : Byte) (hp : s.playing = true) (ha : s.act = some d)
      (hge : d.len.toNat ≤ s.offset.toNat) (hn : hasNext s = true) (hr : advanceReads s = .ok (e, first, final)) :
      TickCase s (output first 1 { s with plPos := halfOf (s.plPos.toNat + 1), act := some e, last := some final })
  | terminal (d : Descriptor) (v : Byte) (hp : s.playing = true) (ha : s.act = some d)
      (hn : hasNext s = false) (hl : s.last = some v) (he : s.offset.toNat = d.len.toNat + v.toNat) :
      TickCase s (tickTerminal s)
  | ramp (d : Descriptor) (v : Byte) (hp : s.playing = true) (ha : s.act = some d)
      (hge : d.len.toNat ≤ s.offset.toNat) (hn : hasNext s = false) (hl : s.last = some v)
      (hlt : s.offset.toNat < d.len.toNat + v.toNat) : TickCase s (tickRamp d v s)

/-- A TICK that answers a next state is one of its five cases. -/
theorem execTick_cases {s t : State} (h : execTick s = .next t) : TickCase s t := by
  unfold execTick at h
  split at h
  · cases h; exact .idle ‹_›
  rename_i hp
  rw [Bool.not_eq_false] at hp
  split at h
  · cases h
  rename_i d ha
  split at h
  · unfold tickStream at h
    split at h
    · cases h
    · cases h; exact .stream d _ hp ha ‹_› ‹_›
  split at h
  · unfold tickAdvance at h
    split at h
    · cases h
    · cases h; exact .advance d _ _ _ hp ha (by omega) ‹_› ‹_›
  rename_i hge hn
  rw [Bool.not_eq_true] at hn
  unfold tickEnd at h
  split at h
  · cases h
  rename_i v hl
  split at h
  · cases h; exact .terminal d v hp ha hn hl ‹_›
  split at h
  · cases h
  · cases h; exact .ramp d v hp ha (by omega) hn hl (by omega)

/-- The completing micro-steps of START and START_PL (41_sequencer.md R74). -/
inductive StartCase (s : State) : Instr → State → Prop where
  | s1 (d : Descriptor) (hc : s.cmd = none) (hk : startChecks s s.arg0 s.arg1 s.arg2 = .ok d) :
      StartCase s .start (latchCmd .start d (loadBuffer d (clearPlaylist s)))
  | p0 (hc : s.cmd = none) (hz : s.arg1.toNat = 0) : StartCase s .startPl s
  | p1 (d : Descriptor) (hc : s.cmd = none) (hz : s.arg1.toNat ≠ 0)
      (hk : plChecks s s.arg0 s.arg1 s.arg2 = .ok d) :
      StartCase s .startPl (latchCmd .startPl d (loadBuffer d
        { s with plBase := some (halfOf s.arg0.toNat), plLen := halfOf s.arg1.toNat, plPos := 0 }))
  | s2 {i : Instr} (c : Cmd) (hc : s.cmd = some c) (hk : c.k = .s2) (hr : c.a2.toNat ≠ 0) :
      StartCase s i { openOutput (tickPeriodOf s.params c.a2) s with cmd := some { c with k := .s3 } }
  | s3 {i : Instr} (c : Cmd) (v : Byte) (hc : s.cmd = some c) (hk : c.k = .s3) (hr : memRead s c.buf.finalAddr = .ok v) :
      StartCase s i { s with last := some v, cmd := some { c with k := .s4 } }
  | s4 {i : Instr} (c : Cmd) (hc : s.cmd = some c) (hk : c.k = .s4) : StartCase s i { s with playing := true, cmd := none }

theorem startTail_cases {s t : State} {i : Instr} {c : Cmd} (hc : s.cmd = some c) (h : startTail c s = .next t) :
    StartCase s i t := by
  unfold startTail at h
  split at h
  · rename_i hk
    unfold startS2 at h
    split at h
    · cases h
    · cases h; exact .s2 c hc hk ‹_›
  · rename_i hk
    unfold startS3 at h
    split at h
    · cases h
    · cases h; exact .s3 c _ hc hk ‹_›
  · cases h; exact .s4 c hc ‹_›

/-- A START that answers a next state is one of its micro-steps. -/
theorem execStart_cases {s t : State} (h : execStart s = .next t) : StartCase s .start t := by
  unfold execStart at h
  split at h
  · rename_i hc
    unfold startS1 at h
    split at h
    · cases h
    · cases h; exact .s1 _ hc ‹_›
  · exact startTail_cases ‹_› h

/-- A START_PL that answers a next state is one of its micro-steps. -/
theorem execStartPl_cases {s t : State} (h : execStartPl s = .next t) : StartCase s .startPl t := by
  unfold execStartPl at h
  split at h
  · rename_i hc
    split at h
    · cases h; exact .p0 hc ‹_›
    · unfold startPlP1 at h
      split at h
      · cases h
      · cases h; exact .p1 _ hc ‹_› ‹_›
  · exact startTail_cases ‹_› h

/-- Everything an instruction can do when it answers a next state. -/
inductive ExecCase (s : State) : Instr → State → Prop where
  | start {i : Instr} {t : State} (hi : i = .start ∨ i = .startPl) (h : StartCase s i t) : ExecCase s i t
  | stop : ExecCase s .stop (stopOffset (clearPlaylist s))
  | finish : ExecCase s .finish (clearPlaylist s)
  | isPlaying : ExecCase s .isPlaying { s with result := playingWord s }
  | tick {t : State} (h : TickCase s t) : ExecCase s .tick t

theorem exec_cases {i : Instr} {s t : State} (h : exec i s = .next t) : ExecCase s i t := by
  cases i with
  | start => exact .start (.inl rfl) (execStart_cases h)
  | startPl => exact .start (.inr rfl) (execStartPl_cases h)
  | stop => cases h; exact .stop
  | finish => cases h; exact .finish
  | isPlaying => cases h; exact .isPlaying
  | tick => exact .tick (execTick_cases h)

/-- START and START_PL with a command in progress: the micro-step. -/
theorem exec_of_cmd {s : State} {c : Cmd} {i : Instr} (hi : i = .start ∨ i = .startPl) (hc : s.cmd = some c) :
    exec i s = startTail c s := by
  rcases hi with rfl | rfl
  · show execStart s = _; unfold execStart; rw [hc]
  · show execStartPl s = _; unfold execStartPl; rw [hc]

/-- What no instruction writes: the fault and refusal records, the launch parameters, the ROM, and the model's input and
record of reads. -/
theorem exec_keeps {i : Instr} {s t : State} (h : exec i s = .next t) :
    t.fault = s.fault ∧ t.refused = s.refused ∧ t.params = s.params ∧ t.rom = s.rom ∧ t.prog = s.prog ∧
      t.sched = s.sched ∧ t.reads = s.reads := by
  cases exec_cases h with
  | start hi h => cases h <;> simp
  | stop => rw [stopOffset_eq]; simp
  | finish => simp
  | isPlaying => simp
  | tick h => cases h <;> simp [tickTerminal, tickRamp]

theorem hasNext_iff (s : State) : hasNext s = true ↔ s.plPos.toNat + 1 < s.plLen.toNat := by simp [hasNext]

/-- A TICK of a playing session with a buffer, unfolded once. -/
theorem exec_tick_of_playing {s : State} {d : Descriptor} (hp : s.playing = true) (ha : s.act = some d) :
    exec .tick s =
      if s.offset.toNat < d.len.toNat then tickStream d s
      else if hasNext s then tickAdvance s
      else tickEnd d s := by
  show execTick s = _
  unfold execTick
  rw [if_neg (by simp [hp]), ha]

/-- The end of a buffer with `last` written, unfolded once. -/
theorem tickEnd_of_last {s : State} {v : Byte} (d : Descriptor) (hl : s.last = some v) :
    tickEnd d s =
      if s.offset.toNat = d.len.toNat + v.toNat then .next (tickTerminal s)
      else if s.offset.toNat > d.len.toNat + v.toNat then .fault (.rampOverrun s.offset.toNat)
      else .next (tickRamp d v s) := by
  unfold tickEnd
  rw [hl]

/-- A TICK does not read the interleaving. -/
theorem exec_tick_withSched {s t : State} (q : List Agent) (h : exec .tick s = .next t) :
    exec .tick { s with sched := q } = .next { t with sched := q } := by
  have key (u : State) (hu : u = { s with sched := q }) : exec .tick u = .next { t with sched := q } := by
    have hp' : u.playing = s.playing := by rw [hu]
    have ha' : u.act = s.act := by rw [hu]
    have ho' : u.offset = s.offset := by rw [hu]
    have hl' : u.last = s.last := by rw [hu]
    have hn' : hasNext u = hasNext s := by rw [hu]; rfl
    have hm (a : Int) : memRead u a = memRead s a := by rw [hu]; rfl
    have hr' : advanceReads u = advanceReads s := by rw [hu]; rfl
    cases execTick_cases h with
    | idle hp =>
      show execTick u = _
      unfold execTick
      rw [if_pos (hp'.trans hp), hu]
    | stream d v hp ha hlt hr =>
      rw [exec_tick_of_playing (hp'.trans hp) (ha'.trans ha), ho', if_pos hlt, tickStream, ho', hm, hr, hu]; rfl
    | advance d e f g hp ha hge hn hr =>
      rw [exec_tick_of_playing (hp'.trans hp) (ha'.trans ha), ho', if_neg (by omega), hn', if_pos hn, tickAdvance, hr',
        hr, hu]
      rfl
    | terminal d v hp ha hn hl he =>
      rw [exec_tick_of_playing (hp'.trans hp) (ha'.trans ha), ho', if_neg (by omega), hn', if_neg (by simp [hn]),
        tickEnd_of_last d (hl'.trans hl), ho', if_pos he, hu]
      rfl
    | ramp d v hp ha hge hn hl hlt =>
      rw [exec_tick_of_playing (hp'.trans hp) (ha'.trans ha), ho', if_neg (by omega), hn', if_neg (by simp [hn]),
        tickEnd_of_last d (hl'.trans hl), ho', if_neg (by omega), if_neg (by omega), hu]
      rfl
  exact key _ rfl

end Sys2Proof.Machine
end

