-- ==== Sys2Proof/Laws/PerInstr.lean ====
section
/-! SUPPORT. One statement per instruction: its bits, laid out as the opcode table numbers them, decode to it, and it is well
formed. -/

namespace Sys2Proof.Laws.Encoding

/-- The instruction is well formed, its bits fit its format, and the decoder reads it back from them. -/
def Statement (i : Sys2Proof.Instr) : Prop :=
  i.wf = true ∧ Sys2Proof.encode i < 2 ^ i.nbits ∧ Sys2Proof.decodeTableWord i.nbits (Sys2Proof.encode i) = some i

theorem start : Statement .start := ⟨rfl, by decide, by decide⟩

theorem startPl : Statement .startPl := ⟨rfl, by decide, by decide⟩

theorem stop : Statement .stop := ⟨rfl, by decide, by decide⟩

theorem finish : Statement .finish := ⟨rfl, by decide, by decide⟩

theorem isPlaying : Statement .isPlaying := ⟨rfl, by decide, by decide⟩

theorem tick : Statement .tick := ⟨rfl, by decide, by decide⟩

end Sys2Proof.Laws.Encoding
end

