-- ==== Sys2Proof/Laws/Step.lean ====
section
/-! SUPPORT. Everything one step can do when it answers a next state, said once. -/

namespace Sys2Proof.Machine

/-- Who runs the instruction `i` in a step from `s` to the action state `u`: the tick agent, the host with a command in
progress, or a CMD write of the instruction's word. -/
inductive Origin (s u : State) (i : Instr) : Prop where
  | tick (hi : i = .tick) (he : s.tickEn = true) : Origin s u i
  | micro (c : Cmd) (hc : s.cmd = some c) (hi : i = c.op.instr) : Origin s u i
  | write (v : Word) (hc : s.cmd = none) (hp : s.prog = .write 0x00 32 v :: u.prog) (hd : decodeCmd v = .ok i) :
      Origin s u i

/-- What a step does once the turn and the access are used up: `u` is the state it acts in, `t` the state it leaves. -/
inductive StepCase (s u : State) : State → Prop where
  | instr (i : Instr) {t : State} (ho : Origin s u i) (h : exec i u = .next t) : StepCase s u t
  | fault (i : Instr) (f : Fault) (ho : Origin s u i) (h : exec i u = .fault f) : StepCase s u (raiseFault f u)
  | refuse (r : RefuseReason) (hc : s.cmd = none) : StepCase s u (refuse r u)
  | arg0 (v : Word) (hc : s.cmd = none) : StepCase s u { u with arg0 := v }
  | arg1 (v : Word) (hc : s.cmd = none) : StepCase s u { u with arg1 := v }
  | arg2 (v : Word) (hc : s.cmd = none) : StepCase s u { u with arg2 := v }
  | read (v : Word) (hc : s.cmd = none) : StepCase s u { u with reads := u.reads ++ [v] }
  | pass : StepCase s u u

theorem exec_ne_refused (i : Instr) (s : State) (r : Refusal) : exec i s ≠ .refused r := by
  have tail (c : Cmd) : startTail c s ≠ .refused r := by
    unfold startTail startS2 startS3 startS4
    repeat' split
    all_goals nofun
  intro h
  cases i with
  | start =>
    change execStart s = _ at h
    unfold execStart startS1 at h
    split at h
    · split at h <;> cases h
    · exact tail _ h
  | startPl =>
    change execStartPl s = _ at h
    unfold execStartPl startPlP1 at h
    split at h
    · split at h
      · cases h
      · split at h <;> cases h
    · exact tail _ h
  | stop => cases h
  | finish => cases h
  | isPlaying => cases h
  | tick =>
    change execTick s = _ at h
    unfold execTick tickStream tickAdvance tickEnd at h
    repeat' split at h
    all_goals cases h

theorem commit_exec_cases {s u t : State} {i : Instr} (ho : Origin s u i) (h : commit u (exec i u) = .next t) :
    StepCase s u t := by
  cases he : exec i u with
  | next t' => rw [he] at h; cases h; exact .instr i ho he
  | fault f => rw [he] at h; cases h; exact .fault i f ho he
  | refused r => exact absurd he (exec_ne_refused i u r)

theorem hostAccess_cases {s u t : State} {a : Access} (hc : s.cmd = none) (hp : s.prog = a :: u.prog)
    (h : commit u (hostAccess a u) = .next t) : StepCase s u t := by
  have bad (r : RefuseReason) (h : commit u (.refused (.host r)) = .next t) : StepCase s u t := by
    cases h; exact .refuse r hc
  cases a with
  | write off bits v =>
    simp only [hostAccess, hostWrite] at h
    split at h; · exact bad _ h
    rename_i hw
    split at h
    · rename_i h0
      unfold writeCmd at h
      split at h
      · exact bad _ h
      · rename_i i hd
        subst h0
        have hb : bits = 32 := by
          simp only [wordAccess, Bool.not_eq_false, Bool.and_eq_true, decide_eq_true_eq] at hw
          exact hw.1
        subst hb
        exact commit_exec_cases (.write v hc hp hd) h
    split at h; · cases h; exact .arg0 v hc
    split at h; · cases h; exact .arg1 v hc
    split at h; · cases h; exact .arg2 v hc
    split at h <;> exact bad _ h
  | read off bits =>
    simp only [hostAccess, hostRead] at h
    split at h
    · exact bad _ h
    · cases h; exact .read _ hc

/-- `s` with the host program and the interleaving left as `p` and `q`: the used-up input, and nothing else. -/
def State.withInput (s : State) (p : List Access) (q : List Agent) : State := { s with prog := p, sched := q }

@[simp] theorem withInput_playing (s : State) (p : List Access) (q : List Agent) :
    (s.withInput p q).playing = s.playing := rfl
@[simp] theorem withInput_act (s : State) (p : List Access) (q : List Agent) :
    (s.withInput p q).act = s.act := rfl
@[simp] theorem withInput_offset (s : State) (p : List Access) (q : List Agent) :
    (s.withInput p q).offset = s.offset := rfl
@[simp] theorem withInput_last (s : State) (p : List Access) (q : List Agent) :
    (s.withInput p q).last = s.last := rfl
@[simp] theorem withInput_plBase (s : State) (p : List Access) (q : List Agent) :
    (s.withInput p q).plBase = s.plBase := rfl
@[simp] theorem withInput_plLen (s : State) (p : List Access) (q : List Agent) :
    (s.withInput p q).plLen = s.plLen := rfl
@[simp] theorem withInput_plPos (s : State) (p : List Access) (q : List Agent) :
    (s.withInput p q).plPos = s.plPos := rfl
@[simp] theorem withInput_tickEn (s : State) (p : List Access) (q : List Agent) :
    (s.withInput p q).tickEn = s.tickEn := rfl
@[simp] theorem withInput_tickPeriod (s : State) (p : List Access) (q : List Agent) :
    (s.withInput p q).tickPeriod = s.tickPeriod := rfl
@[simp] theorem withInput_pwmEn (s : State) (p : List Access) (q : List Agent) :
    (s.withInput p q).pwmEn = s.pwmEn := rfl
@[simp] theorem withInput_pinActive (s : State) (p : List Access) (q : List Agent) :
    (s.withInput p q).pinActive = s.pinActive := rfl
@[simp] theorem withInput_duty (s : State) (p : List Access) (q : List Agent) :
    (s.withInput p q).duty = s.duty := rfl
@[simp] theorem withInput_arg0 (s : State) (p : List Access) (q : List Agent) :
    (s.withInput p q).arg0 = s.arg0 := rfl
@[simp] theorem withInput_arg1 (s : State) (p : List Access) (q : List Agent) :
    (s.withInput p q).arg1 = s.arg1 := rfl
@[simp] theorem withInput_arg2 (s : State) (p : List Access) (q : List Agent) :
    (s.withInput p q).arg2 = s.arg2 := rfl
@[simp] theorem withInput_result (s : State) (p : List Access) (q : List Agent) :
    (s.withInput p q).result = s.result := rfl
@[simp] theorem withInput_cmd (s : State) (p : List Access) (q : List Agent) :
    (s.withInput p q).cmd = s.cmd := rfl
@[simp] theorem withInput_fault (s : State) (p : List Access) (q : List Agent) :
    (s.withInput p q).fault = s.fault := rfl
@[simp] theorem withInput_refused (s : State) (p : List Access) (q : List Agent) :
    (s.withInput p q).refused = s.refused := rfl
@[simp] theorem withInput_log (s : State) (p : List Access) (q : List Agent) :
    (s.withInput p q).log = s.log := rfl
@[simp] theorem withInput_params (s : State) (p : List Access) (q : List Agent) :
    (s.withInput p q).params = s.params := rfl
@[simp] theorem withInput_rom (s : State) (p : List Access) (q : List Agent) :
    (s.withInput p q).rom = s.rom := rfl
@[simp] theorem withInput_prog (s : State) (p : List Access) (q : List Agent) :
    (s.withInput p q).prog = p := rfl
@[simp] theorem withInput_sched (s : State) (p : List Access) (q : List Agent) :
    (s.withInput p q).sched = q := rfl
@[simp] theorem withInput_reads (s : State) (p : List Access) (q : List Agent) :
    (s.withInput p q).reads = s.reads := rfl
@[simp] theorem withInput_draws (s : State) (p : List Access) (q : List Agent) :
    (s.withInput p q).draws = s.draws := rfl

theorem hostTurn_cases {s t : State} {q : List Agent} (h : hostTurn (s.withInput s.prog q) = .next t) :
    ∃ p, StepCase s (s.withInput p q) t := by
  unfold hostTurn at h
  split at h
  · exact ⟨_, commit_exec_cases (.micro _ ‹_› rfl) h⟩
  · rename_i hc
    split at h
    · cases h; exact ⟨_, .pass⟩
    · rename_i a rest hpr
      exact ⟨rest, hostAccess_cases hc hpr h⟩

theorem tickTurn_cases {s t : State} {q : List Agent} (h : tickTurn (s.withInput s.prog q) = .next t) :
    ∃ p, StepCase s (s.withInput p q) t := by
  unfold tickTurn at h
  split at h
  · exact ⟨_, commit_exec_cases (.tick rfl ‹_›) h⟩
  · cases h; exact ⟨_, .pass⟩

/-- Everything a step can do when it answers a next state: the state is live, the step acts in a state that differs only in the
used-up input, and does one of the cases of `StepCase`. -/
theorem step_cases {s t : State} (h : step s = .next t) : s.live ∧ ∃ p q, StepCase s (s.withInput p q) t := by
  unfold step agentStep at h
  split at h
  · cases h
  rename_i hf
  split at h
  · cases h
  rename_i hr
  refine ⟨⟨hf, hr⟩, ?_⟩
  unfold takeTurn at h
  split at h
  · rename_i rest _
    obtain ⟨p, hp⟩ := hostTurn_cases (q := rest) h
    exact ⟨p, _, hp⟩
  · rename_i rest _
    obtain ⟨p, hp⟩ := tickTurn_cases (q := rest) h
    exact ⟨p, _, hp⟩
  · split at h
    · obtain ⟨p, hp⟩ := hostTurn_cases (q := s.sched) h
      exact ⟨p, _, hp⟩
    · obtain ⟨p, hp⟩ := tickTurn_cases (q := s.sched) h
      exact ⟨p, _, hp⟩

/-- In a live state the step is the turn. -/
theorem step_of_live {s : State} (h : s.live) : step s = takeTurn s := by
  simp [step, agentStep, h.1, h.2]

/-- The host's turn, next. -/
theorem step_turnNext_host {s : State} (h : s.live) : step (s.turnNext .host) = hostTurn s := by
  rw [step_of_live (s := s.turnNext .host) h]; rfl

/-- A host access, next, with no command in progress. -/
theorem step_accessNext {s : State} (a : Access) (h : s.live) (hc : s.cmd = none) :
    step (s.accessNext a) = commit s (hostAccess a s) := by
  rw [step_of_live (s := s.accessNext a) h]
  show hostTurn { s with prog := a :: s.prog } = _
  cases s; cases hc; rfl

/-- A host access, next, with a command in progress: it waits, and the command's micro-step runs. -/
theorem step_accessNext_busy {s : State} {c : Cmd} (a : Access) (h : s.live) (hc : s.cmd = some c) :
    step (s.accessNext a) =
      commit { s with prog := a :: s.prog } (exec c.op.instr { s with prog := a :: s.prog }) := by
  rw [step_of_live (s := s.accessNext a) h]
  show hostTurn { s with prog := a :: s.prog } = _
  cases s; cases hc; rfl

/-- The tick's turn, next. -/
theorem step_turnNext_tick {s : State} (h : s.live) : step (s.turnNext .tick) = tickTurn s := by
  rw [step_of_live (s := s.turnNext .tick) h]; rfl

/-- One step taken off a run. -/
theorem run_succ {s t : State} (k : Nat) (h : step s = .next t) :
    Host.Core.run Sys2Proof.core (k + 1) s = Host.Core.run Sys2Proof.core k t := by
  have general (M : Host.Core) (x y : M.State) (h : M.step x = .next y) : M.run (k + 1) x = M.run k y := by
    simp only [Host.Core.run, h]
  exact general Sys2Proof.core s t h

/-- One TICK taken off a run of the tick's turns. -/
theorem runTurns_tick_succ {s t : State} (k : Nat) (hl : s.live) (he : s.tickEn = true) (h : exec .tick s = .next t) :
    runTurns .tick (k + 1) s = runTurns .tick k t := by
  have ht : t.sched = s.sched := (exec_keeps h).2.2.2.2.2.1
  have h1 : step (s.nextTurns .tick (k + 1)) = .next (t.nextTurns .tick k) := by
    show step (({ s with sched := List.replicate k .tick ++ s.sched } : State).turnNext .tick) = _
    rw [step_turnNext_tick (s := { s with sched := List.replicate k .tick ++ s.sched }) hl, tickTurn, if_pos he,
      exec_tick_withSched _ h]
    show Host.Outcome.next _ = _
    unfold State.nextTurns
    rw [ht]
  exact run_succ k h1

end Sys2Proof.Machine
end

