-- ==== Sys2Proof/Tests/Slice0.lean ====
section
/-! SUPPORT. The model's own tests: what is ill formed is refused, decoding from words written out bit by bit, single steps
from 95_test_vectors.md, and for every statement of Certificates/Slice0/Obligations.lean that has hypotheses a witness that
meets them, with the values at the boundaries. Expected values come from the spec's vectors or are counted by hand. -/

namespace Sys2Proof.Tests

open Sys2Proof Sys2Proof.Machine

/-! ## The set-up of 95_test_vectors.md section 0 -/

/-- The parameters of 95_test_vectors.md section 0. -/
def params : Params where
  romSize := 0x1000
  clkHz := 16000000
  tickPeriodMax := 65535
  pwmFreqHz := 0
  blkBase := 0

/-- The buffers A, M, B and C of `IMG`, and its segments at 0x0150. -/
def buffers : List Host.Cell :=
  memPlaceAll (memPlaceAll (memPlaceAll (memPlaceAll (memPlaceAll [] 0x100 [10, 20, 30]) 0x120 [255]) 0x130 [40, 3])
    0x150 [5, 5, 9]) 0x160 [100, 50, 200, 7]

/-- Those with the tables T1, T3 and T6 of `IMG`. -/
def img : List Host.Cell :=
  memPlaceAll (memPlaceAll (memPlaceAll buffers 0x200 [0x50, 0x01, 0x02, 0x00, 0x52, 0x01, 0x01, 0x00])
    0x220 [0x50, 0x01, 0x02, 0x00, 0x52, 0x01, 0x00, 0x00]) 0x250 [0x50, 0x01, 0x02, 0x00, 0xFF, 0x0F, 0x02, 0x00]

/-- The reset state on `IMG`, `duty` drawn as 0. -/
def idle : State := { State.launch params img [] [] with duty := 0 }

/-- `idle` with `ARG0`, `ARG1`, `ARG2` written. -/
def args (a b c : Word) : State := { idle with arg0 := a, arg1 := b, arg2 := c }

/-- A playing session on a buffer. -/
def session (d : Descriptor) (offset : Half) (last : Byte) : State :=
  { idle with
    playing := true, act := some d, offset := offset, last := some last
    tickEn := true, tickPeriod := some 2000, pwmEn := true, pinActive := true, log := [.start 2000] }

/-- A playing session on buffer A. -/
def sessionA (offset : Half) : State := session { base := 0x100, len := 3 } offset 30

/-- A playing session on entry 0 of the two-entry table at `p`, its Advance pending at `offset` 2. -/
def sessionPl (p : Half) (offset : Half) : State :=
  { session { base := 0x150, len := 2 } offset 5 with plBase := some p, plLen := 2, plPos := 0 }

/-- A START of buffer A in progress, its next micro-step `k`. -/
def startCmd (k : MicroStep) : Cmd where
  op := .start
  k := k
  a0 := 0x100
  a1 := 3
  a2 := 8000
  buf := { base := 0x100, len := 3 }

/-- The state after S1 of a START of A from `idle`, at the micro-step `k`. -/
def starting (k : MicroStep) : State :=
  { args 0x100 3 8000 with act := some { base := 0x100, len := 3 }, cmd := some (startCmd k) }

/-- What `f` reads in the next state; none where there is none. -/
def nextOf {α : Type} (o : Res) (f : State → α) : Option α :=
  match o with
  | .next t => some (f t)
  | .fault _ => none
  | .refused _ => none

/-- The fault of an outcome. -/
def faultOf (o : Res) : Option Fault :=
  match o with
  | .next _ => none
  | .fault f => some f
  | .refused _ => none

theorem exists_next {α : Type} {o : Res} {f : State → α} {v : α} (h : nextOf o f = some v) :
    ∃ t, o = .next t ∧ f t = v := by
  cases o with
  | next t => exact ⟨t, rfl, Option.some.inj h⟩
  | fault _ => cases h
  | refused _ => cases h

/-- The invariant of a state whose fields pass its checks. -/
theorem inv_of_checks {s : State} {d : Descriptor} {v : Byte} {p : Nat} (ha : s.act = some d) (hl : s.last = some v)
    (hp : s.tickPeriod = some p) (hc : ∀ c, s.cmd = some c → CmdInv s c)
    (hpl : 0 < s.plLen.toNat → ∃ q, s.plBase = some q ∧ q.toNat + 4 * s.plLen.toNat ≤ s.params.romSize)
    (h : s.params.wf = true ∧ memWf s.rom = true ∧ (∀ c ∈ s.rom, c.1 < s.params.romSize) ∧ d.ok s.params ∧
      s.offset.toNat ≤ d.len.toNat + 255 ∧ (0 < s.plLen.toNat → s.plPos.toNat < s.plLen.toNat) ∧
      s.tickEn = s.pwmEn ∧ s.pwmEn = s.pinActive ∧ s.params.periodOk p ∧ s.result.toNat ≤ 1) : Inv s where
  params := h.1
  rom := h.2.1
  romEnd := h.2.2.1
  act := by intro e he; rw [ha] at he; cases he; exact h.2.2.2.1
  offset := by intro e he; rw [ha] at he; cases he; exact h.2.2.2.2.1
  playlist := fun hlt => ⟨h.2.2.2.2.2.1 hlt, hpl hlt⟩
  enables := ⟨h.2.2.2.2.2.2.1, h.2.2.2.2.2.2.2.1⟩
  period := by intro q hq; rw [hp] at hq; cases hq; exact h.2.2.2.2.2.2.2.2.1
  ticking := fun _ => ⟨by simp [ha], by simp [hp]⟩
  playing := fun _ => ⟨by simp [ha], by simp [hl]⟩
  cmd := hc
  result := h.2.2.2.2.2.2.2.2.2

/-- The terminal tick's state: `offset` is `3 + 30`. -/
theorem inv_terminal : Inv (sessionA 33) :=
  inv_of_checks (d := { base := 0x100, len := 3 }) (v := 30) (p := 2000) rfl rfl rfl nofun (fun h => absurd h (by decide))
    (by decide)

/-- The largest `offset` the invariant admits for a buffer of 3 bytes. -/
theorem inv_overrun : Inv (sessionA 258) :=
  inv_of_checks (d := { base := 0x100, len := 3 }) (v := 30) (p := 2000) rfl rfl rfl nofun (fun h => absurd h (by decide))
    (by decide)

/-- An Advance pending to a bad entry. -/
theorem inv_badEntry : Inv (sessionPl 0x220 2) :=
  inv_of_checks (d := { base := 0x150, len := 2 }) (v := 5) (p := 2000) rfl rfl rfl nofun
    (fun _ => ⟨0x220, rfl, by decide⟩) (by decide)

theorem cmdInv_s2 : CmdInv { sessionA 0 with cmd := some (startCmd .s2) } (startCmd .s2) :=
  ⟨by decide, by decide, by decide, nofun, nofun⟩

theorem inv_s2 : Inv { sessionA 0 with cmd := some (startCmd .s2) } :=
  inv_of_checks (d := { base := 0x100, len := 3 }) (v := 30) (p := 2000) rfl rfl rfl
    (by intro c h; cases h; exact cmdInv_s2) (fun h => absurd h (by decide)) (by decide)

theorem cmdInv_s4 : CmdInv { sessionA 0 with cmd := some (startCmd .s4) } (startCmd .s4) :=
  ⟨by decide, by decide, by decide, nofun, fun _ => nofun⟩

theorem inv_s4 : Inv { sessionA 0 with cmd := some (startCmd .s4) } :=
  inv_of_checks (d := { base := 0x100, len := 3 }) (v := 30) (p := 2000) rfl rfl rfl
    (by intro c h; cases h; exact cmdInv_s4) (fun h => absurd h (by decide)) (by decide)

/-! ## Well-formedness: an ill-formed term for each check -/

theorem test_wf_rsv_low : cmdWordWf 0x00000010 = false := by decide
theorem test_wf_rsv_high : cmdWordWf 0x80000001 = false := by decide
theorem test_wf_op_zero : cmdWordWf 0x00000000 = false := by decide
theorem test_wf_op_six : cmdWordWf 0x00000006 = false := by decide
theorem test_wf_words : cmdWordWf 0x1 = true ∧ cmdWordWf 0x5 = true := by decide
theorem test_wf_params : params.wf = true ∧ ({ params with romSize := 65536 } : Params).wf = true := by decide
theorem test_wf_rom_empty : ({ params with romSize := 0 } : Params).wf = false := by decide
theorem test_wf_rom_large : ({ params with romSize := 65537 } : Params).wf = false := by decide
theorem test_wf_clk : ({ params with clkHz := 0 } : Params).wf = false := by decide
theorem test_wf_period : ({ params with tickPeriodMax := 0 } : Params).wf = false := by decide
theorem test_wf_memory : memWf img = true ∧ memWf [(2, 1), (1, 1)] = false ∧ memWf [(1, 1), (1, 2)] = false ∧
    memWf [(1, 0)] = false := by decide
theorem test_wf_instr : Instr.wf .start = true ∧ Instr.wf .tick = true := by decide

/-! ## Decoding: words written out from 30_encoding.md R51, R52 and R54 -/

theorem test_decode_start : decodeCmd 0b00000000000000000000000000000001 = .ok .start := by rfl
theorem test_decode_startPl : decodeCmd 0b00000000000000000000000000000010 = .ok .startPl := by rfl
theorem test_decode_stop : decodeCmd 0b00000000000000000000000000000011 = .ok .stop := by rfl
theorem test_decode_finish : decodeCmd 0b00000000000000000000000000000100 = .ok .finish := by rfl
theorem test_decode_isPlaying : decodeCmd 0b00000000000000000000000000000101 = .ok .isPlaying := by rfl
theorem test_decode_tick : decodeEvt 0b1 = some .tick ∧ decodeEvt 0b0 = none := by decide
/-- Vectors H1 to H4; the reserved bits are checked first. -/
theorem test_decode_reserved : decodeCmd 0x00000010 = .error .reservedBits ∧ decodeCmd 0x80000001 = .error .reservedBits ∧
    decodeCmd 0x00000000 = .error .reservedOp ∧ decodeCmd 0x00000006 = .error .reservedOp ∧
    decodeCmd 0x0000000F = .error .reservedOp := ⟨rfl, rfl, rfl, rfl, rfl⟩
/-- A CMD word and the event are told apart by the width; a bit beyond the word is no CMD word. -/
theorem test_decode_table : decodeTableWord 32 1 = some .start ∧ decodeTableWord 8 1 = some .tick ∧
    decodeTableWord 1 1 = some .tick ∧ decodeTableWord 32 0 = none ∧ decodeTableWord 8 0 = none ∧
    decodeTableWord 32 0x100000001 = none := by decide
theorem test_first_step : step (State.reset.withFetchWord 32 3) = commit State.reset (exec .stop State.reset) := rfl
theorem test_first_tick :
    step (State.reset.withFetchWord 8 1) = .next { State.reset with tickEn := true } := rfl

/-! ## Single steps from 95_test_vectors.md sections 2 and 3 -/

/-- S12: `16000000 div 7000` is 2285, rounded down. -/
theorem test_start_period : nextOf (exec .start { starting .s2 with cmd := some { startCmd .s2 with a2 := 7000 } })
    (fun t => (t.tickPeriod, t.log)) = some (some 2285, [.start 2285]) := by decide
/-- S8: `0x0FFE + 3 > 0x1000`, with info `0x1001`. -/
theorem test_start_past_rom : faultOf (exec .start (args 0xFFE 3 8000)) = some (.addrRange 0x1001) := by decide
/-- PL1: entry 0 of table T1. -/
theorem test_startPl_entry : nextOf (exec .startPl (args 0x200 2 8000)) (fun t => (t.act, t.plBase, t.plLen, t.plPos)) =
    some (some { base := 0x150, len := 2 }, some 0x200, 2, 0) := by decide
/-- PL6: the table passes the end of the ROM, with info `0x1004`. -/
theorem test_startPl_past_rom : faultOf (exec .startPl (args 0xFFC 2 8000)) = some (.addrRange 0x1004) := by decide
/-- X1: `offset` moves to the length of C, not of the byte last output. -/
theorem test_stop_offset : nextOf (exec .stop (session { base := 0x160, len := 4 } 2 7))
    (fun t => (t.offset, t.last, t.playing)) = some (4, some 7, true) := by decide
/-- X3: a pending Advance is dropped. -/
theorem test_stop_playlist : nextOf (exec .stop (sessionPl 0x200 2)) (fun t => (t.plBase, t.plLen, t.offset)) =
    some (none, 0, 2) := by decide
/-- F3: the playlist goes, the session stays. -/
theorem test_finish : nextOf (exec .finish (sessionPl 0x200 1)) (fun t => (t.plBase, t.plLen, t.plPos)) =
    some (none, 0, 0) := by decide
theorem test_finish_keeps : nextOf (exec .finish (sessionPl 0x200 1)) (fun t => (t.playing, t.offset, t.tickEn)) =
    some (true, 1, true) := by decide
/-- Q6: 1 in the hang. -/
theorem test_isPlaying_hang : nextOf (exec .isPlaying { sessionA 0 with tickEn := false }) (·.result) = some 1 := by decide
/-- Q1: 0 at reset. -/
theorem test_isPlaying_reset : nextOf (exec .isPlaying { idle with result := 1 }) (·.result) = some 0 := by decide
/-- T13: an Advance. -/
theorem test_tick_advance : nextOf (exec .tick (sessionPl 0x200 2)) (fun t => (t.plPos, t.act, t.last, t.duty, t.offset)) =
    some (1, some { base := 0x152, len := 1 }, some 9, 9, 1) := by decide
/-- T18: the next entry passes the end of the ROM. -/
theorem test_tick_bad_entry : faultOf (exec .tick (sessionPl 0x250 2)) = some (.addrRange 0x1001) := by decide
/-- Q4: a ramping session. -/
theorem test_status_ramp : statusWord (sessionA 10) = 0x17 := by decide
/-- Q5: a playlist in its first entry. -/
theorem test_status_playlist : statusWord (sessionPl 0x200 0) = 0x0F := by decide
/-- H7: an unmapped offset, a misaligned write, an 8-bit read. -/
theorem test_access_bad : readValue 0x18 32 idle = .error .badOffset ∧ readValue 0x04 8 idle = .error .badOffset ∧
    nextOf (step (idle.accessNext (.write 0x02 32 0))) (·.refused) = some (some .badOffset) := ⟨rfl, rfl, by decide⟩
/-- H8: any value may stand in `ARG0`. -/
theorem test_access_arg : nextOf (step (idle.accessNext (.write 0x04 32 0xDEADBEEF))) (·.arg0) = some 0xDEADBEEF := by decide
/-- A6: bytes `FF FF FF 7F` are base 0xFFFF, length 0x7FFF. -/
theorem test_descriptor : le16 0xFF 0xFF = 0xFFFF ∧ le16 0xFF 0x7F = 0x7FFF ∧ le16 0x50 0x01 = 0x0150 := by decide

/-! ## Witnesses: a state and operands that meet the hypotheses of each statement -/

theorem witness_ReservedWordsAreRefused : idle.live ∧ idle.cmd = none ∧
    ((0x10 : Word).toNat / 16 ≠ 0 ∧ (0xFFFFFFFF : Word).toNat / 16 ≠ 0) ∧
    ((0x0 : Word).toNat / 16 = 0 ∧ (0x0 : Word).toNat % 16 = 0) ∧
    ((0x6 : Word).toNat / 16 = 0 ∧ 6 ≤ (0x6 : Word).toNat % 16) ∧
    ((0xF : Word).toNat / 16 = 0 ∧ 6 ≤ (0xF : Word).toNat % 16) := by decide

theorem witness_StepRunsTheDecodedInstruction :
    (idle.live ∧ idle.cmd = none ∧ (decodeCmd 1).toOption = some .start) ∧
    ((starting .s2).live ∧ (starting .s2).cmd = some (startCmd .s2)) ∧
    ((sessionA 0).live ∧ (sessionA 0).tickEn = true) ∧
    decodeTableWord 32 5 = some .isPlaying ∧ decodeTableWord 8 1 = some .tick := by decide

theorem witness_TickIsDeliveredExactlyWhileEnabled :
    ((sessionA 0).live ∧ (sessionA 0).tickEn = true) ∧ (idle.live ∧ idle.tickEn = false) ∧
    ¬ ({ sessionA 0 with fault := some .noBuffer } : State).live ∧
    ¬ ({ sessionA 0 with refused := some .woRead } : State).live := by decide

theorem witness_IdleHostLetsTheTickRun : (sessionA 0).live ∧ (sessionA 0).sched = [] ∧ (sessionA 0).cmd = none ∧
    (sessionA 0).prog = [] ∧ (sessionA 0).tickEn = true := by decide

theorem witness_FinalStatesDoNotMove : idle.final = true ∧ (idle.turnNext .host).final = true ∧
    ({ sessionA 0 with tickEn := false } : State).final = true := by decide

theorem witness_FaultsDropTheWritesAndStick :
    (∃ t, step ((sessionA 34).turnNext .tick) = .next t ∧ t.fault = some (.rampOverrun 34)) ∧
    ({ idle with fault := some .noBuffer } : State).fault = some .noBuffer ∧
    exec .start (args 0x100 0 8000) = .fault (.zeroLength 0x100 0) :=
  ⟨⟨_, rfl, by decide⟩, rfl, rfl⟩

theorem witness_RefusalsWriteOnlyRefused :
    (∃ t, step (idle.accessNext (.read 0x00 32)) = .next t ∧ t.refused = some .woRead) ∧
    ({ idle with refused := some .badOffset } : State).refused ≠ none :=
  ⟨⟨_, rfl, rfl⟩, nofun⟩

theorem witness_HostAccessesFollowTheRegisterMap : (idle.live ∧ idle.cmd = none) ∧
    (starting .s2).cmd ≠ none ∧ ∃ t, step ((starting .s2).accessNext (.read 0x14 32)) = .next t :=
  ⟨by decide, nofun, _, rfl⟩

/-- The table's last entry that lies in the ROM, and the first that does not. -/
theorem witness_DescReadIsLittleEndian :
    0xFF4 + 4 * 2 + 3 < idle.params.romSize ∧ idle.params.romSize ≤ 0xFF5 + 4 * 2 + 3 := by decide

theorem witness_CheckBufReportsTheFirstFailure :
    32767 < 32768 ∧ (1 ≤ 1 ∧ 1 ≤ 32767 ∧ params.romSize < 0x1000 + 1) ∧
    (1 ≤ 32767 ∧ 32767 ≤ 32767 ∧ params.romSize < 0 + 32767) := by decide

theorem witness_NoStepChangesTheRom : ∃ t, step ((sessionA 0).turnNext .tick) = .next t := ⟨_, rfl⟩

/-- Vectors S1 and S3, and the largest rate and the smallest (A4). -/
theorem witness_StartLoadsTheBuffer : ∀ s ∈ [args 0x100 3 8000, args 0xFFD 3 16000000, args 0 4096 245],
    s.cmd = none ∧ s.arg0.toNat < 65536 ∧ 1 ≤ s.arg1.toNat ∧ s.arg1.toNat ≤ 32767 ∧
    s.arg0.toNat + s.arg1.toNat ≤ s.params.romSize ∧ s.arg2.toNat ≠ 0 ∧
    1 ≤ s.params.clkHz / s.arg2.toNat ∧ s.params.clkHz / s.arg2.toNat ≤ s.params.tickPeriodMax := by decide

/-- Vectors S4 to S11, each clause at the boundary of its range. -/
theorem witness_StartRaisesTheFirstFailingCheck :
    65536 ≤ (args 0x10000 0 0).arg0.toNat ∧
    ((args 0xFFFF 0 8000).arg0.toNat < 65536 ∧ (args 0xFFFF 0 8000).arg1.toNat = 0) ∧
    ((args 0 32768 8000).arg0.toNat < 65536 ∧ 32767 < (args 0 32768 8000).arg1.toNat) ∧
    (1 ≤ (args 0xFFE 3 8000).arg1.toNat ∧ (args 0xFFE 3 8000).arg1.toNat ≤ 32767 ∧
      params.romSize < (args 0xFFE 3 8000).arg0.toNat + (args 0xFFE 3 8000).arg1.toNat) ∧
    ((args 0xFFD 3 0).arg0.toNat + (args 0xFFD 3 0).arg1.toNat ≤ params.romSize ∧ (args 0xFFD 3 0).arg2.toNat = 0) ∧
    ((args 0x100 3 16000001).arg2.toNat ≠ 0 ∧ params.clkHz / (args 0x100 3 16000001).arg2.toNat = 0) ∧
    ((args 0x100 3 200).arg2.toNat ≠ 0 ∧ params.tickPeriodMax < params.clkHz / (args 0x100 3 200).arg2.toNat) := by decide

theorem witness_SecondMicroStepOpensTheOutput : (starting .s2).cmd = some (startCmd .s2) ∧ (startCmd .s2).k = .s2 ∧
    (startCmd .s2).a2.toNat ≠ 0 := by decide

theorem witness_ThirdMicroStepCachesTheFinalByte : (starting .s3).cmd = some (startCmd .s3) ∧ (startCmd .s3).k = .s3 ∧
    1 ≤ (startCmd .s3).buf.base.toNat + (startCmd .s3).buf.len.toNat ∧
    (startCmd .s3).buf.base.toNat + (startCmd .s3).buf.len.toNat ≤ (starting .s3).params.romSize := by decide

theorem witness_OnlyTheFourthMicroStepSetsPlaying :
    ((starting .s4).cmd = some (startCmd .s4) ∧ (startCmd .s4).k = .s4) ∧
    ∃ t, step ((starting .s4).turnNext .host) = .next t ∧ (starting .s4).playing = false ∧ t.playing = true :=
  ⟨by decide, _, rfl, rfl, rfl⟩

/-- PL2: the other operands out of range. -/
theorem witness_EmptyPlaylistIsANoOp : (args 0xFFFFFFFF 0 0).cmd = none ∧ (args 0xFFFFFFFF 0 0).arg1.toNat = 0 ∧
    (args 0xFFFFFFFF 0 0).live := by decide

/-- PL4 to PL6, and PL1 and PL7 for the last clause. -/
theorem witness_StartPlChecksThenLoadsEntryZero :
    65535 < (args 0x200 65536 8000).arg1.toNat ∧
    ((args 0x10000 65535 8000).arg1.toNat ≤ 65535 ∧ 65536 ≤ (args 0x10000 65535 8000).arg0.toNat) ∧
    ((args 0xFFC 2 8000).arg0.toNat < 65536 ∧
      params.romSize < (args 0xFFC 2 8000).arg0.toNat + 4 * (args 0xFFC 2 8000).arg1.toNat) ∧
    ((args 0xFFC 1 8000).cmd = none ∧ 1 ≤ (args 0xFFC 1 8000).arg1.toNat ∧ (args 0xFFC 1 8000).arg1.toNat ≤ 65535 ∧
      (args 0xFFC 1 8000).arg0.toNat + 4 * (args 0xFFC 1 8000).arg1.toNat ≤ params.romSize) := by decide

theorem witness_StartPlCompletes : ∀ s ∈ [args 0x200 2 8000, args 0x250 1 245],
    s.cmd = none ∧ 1 ≤ s.arg1.toNat ∧ s.arg1.toNat ≤ 65535 ∧ s.arg0.toNat < 65536 ∧
    s.arg0.toNat + 4 * s.arg1.toNat ≤ s.params.romSize ∧ (tableEntry s s.arg0.toNat 0).ok s.params ∧
    s.arg2.toNat ≠ 0 ∧ s.params.periodOk (s.params.clkHz / s.arg2.toNat) := by decide

theorem witness_StartRunsToItsReturn : ∀ s ∈ [args 0x100 3 8000, args 0xFFF 1 16000000],
    s.live ∧ s.cmd = none ∧ s.arg0.toNat < 65536 ∧ 1 ≤ s.arg1.toNat ∧ s.arg1.toNat ≤ 32767 ∧
    s.arg0.toNat + s.arg1.toNat ≤ s.params.romSize ∧ s.arg2.toNat ≠ 0 ∧
    s.params.periodOk (s.params.clkHz / s.arg2.toNat) := by decide

theorem witness_StartPreemptsAPlayingSession :
    ∃ t, exec .start { sessionA 33 with arg0 := 0x130, arg1 := 2, arg2 := 8000 } = .next t ∧
      (sessionA 33).cmd = none ∧ (sessionA 33).playing = true :=
  ⟨_, rfl, rfl, rfl⟩

theorem witness_StopMovesOffsetToTheEnd : (sessionA 1).act = some { base := 0x100, len := 3 } ∧ idle.act = none := by decide

theorem witness_FinishClearsOnlyThePlaylist : (idle.plBase = none ∧ idle.plLen = 0 ∧ idle.plPos = 0) ∧
    ∃ t, exec .finish (sessionPl 0x200 2) = .next t := ⟨by decide, _, rfl⟩

theorem witness_IsPlayingReportsPlaying : ∃ t, exec .isPlaying (sessionA 1) = .next t := ⟨_, rfl⟩

theorem witness_IdleTickChangesNothing : idle.playing = false ∧ idle.act = none ∧ (starting .s3).playing = false := by decide

/-- The first and the last byte of a buffer, one of them the last of the ROM. -/
theorem witness_StreamingTickOutputsTheByte :
    ((sessionA 0).playing = true ∧ (sessionA 0).act = some { base := 0x100, len := 3 } ∧ (sessionA 0).offset.toNat < 3 ∧
      0x100 + 3 ≤ params.romSize) ∧
    ((session { base := 0xFFE, len := 2 } 1 0).offset.toNat < 2 ∧ 0xFFE + 2 ≤ params.romSize) := by decide

/-- The hypotheses of `Obligations.AdvanceTickLoadsTheNextEntry` for `sessionPl p 2`. -/
abbrev AdvancePremises (p : Half) : Prop :=
  (sessionPl p 2).playing = true ∧ (sessionPl p 2).act = some { base := 0x150, len := 2 } ∧
  2 ≤ (sessionPl p 2).offset.toNat ∧ (sessionPl p 2).plPos.toNat + 1 < (sessionPl p 2).plLen.toNat ∧
  (sessionPl p 2).plBase = some p ∧ p.toNat + 4 * (sessionPl p 2).plLen.toNat ≤ params.romSize

/-- A good next entry, a bad one, and a table that ends with the ROM. -/
theorem witness_AdvanceTickLoadsTheNextEntry : AdvancePremises 0x200 ∧ AdvancePremises 0x220 ∧ AdvancePremises 0xFF8 := by
  decide

/-- T6 and, with `last = 0`, T8. -/
theorem witness_TerminalTickEndsTheSession :
    ∀ x ∈ [(sessionA 33, (30 : Byte)), (session { base := 0x100, len := 3 } 3 0, 0)],
    x.1.playing = true ∧ x.1.act = some { base := 0x100, len := 3 } ∧ x.1.last = some x.2 ∧
    ¬ x.1.plPos.toNat + 1 < x.1.plLen.toNat ∧ x.1.offset.toNat = 3 + x.2.toNat := by decide

/-- T4 and T5: the first ramp tick and the last. -/
theorem witness_RampTickOutputsTheRemainder : ∀ s ∈ [sessionA 3, sessionA 32],
    s.playing = true ∧ s.act = some { base := 0x100, len := 3 } ∧ s.last = some 30 ∧ 3 ≤ 32767 ∧ 3 ≤ s.offset.toNat ∧
    ¬ s.plPos.toNat + 1 < s.plLen.toNat ∧ s.offset.toNat < 3 + (30 : Byte).toNat := by decide

theorem witness_RampOverrunFaults : (sessionA 34).playing = true ∧ (sessionA 34).act = some { base := 0x100, len := 3 } ∧
    (sessionA 34).last = some 30 ∧ ¬ (sessionA 34).plPos.toNat + 1 < (sessionA 34).plLen.toNat ∧
    3 + (30 : Byte).toNat < (sessionA 34).offset.toNat := by decide

/-- T20 and T21, and a state that meets the invariant. -/
theorem witness_UnwrittenStateFaults :
    (({ sessionA 3 with act := none } : State).playing = true ∧ ({ sessionA 3 with act := none } : State).act = none) ∧
    (({ sessionA 3 with last := none } : State).act = some { base := 0x100, len := 3 } ∧
      3 ≤ ({ sessionA 3 with last := none } : State).offset.toNat ∧
      ¬ (sessionA 3).plPos.toNat + 1 < (sessionA 3).plLen.toNat ∧ ({ sessionA 3 with last := none } : State).last = none) ∧
    Inv (sessionA 33) := ⟨by decide, by decide, inv_terminal⟩

/-- T13, and T14 for the other `last`. -/
theorem witness_AdvanceWinsOverTheRamp : (sessionPl 0x200 2).playing = true ∧
    (sessionPl 0x200 2).act = some { base := 0x150, len := 2 } ∧ 2 ≤ (sessionPl 0x200 2).offset.toNat ∧
    (sessionPl 0x200 2).plPos.toNat + 1 < (sessionPl 0x200 2).plLen.toNat ∧
    ∃ t, exec .tick (sessionPl 0x200 2) = .next t := ⟨rfl, rfl, by decide, by decide, _, rfl⟩

theorem witness_TickFaultsAreOverrunOrBadEntry :
    (Inv (sessionA 258) ∧ exec .tick (sessionA 258) = .fault (.rampOverrun 258)) ∧
    (Inv (sessionPl 0x220 2) ∧ exec .tick (sessionPl 0x220 2) = .fault (.zeroLength 0x152 0)) :=
  ⟨⟨inv_overrun, rfl⟩, inv_badEntry, rfl⟩

theorem witness_LevelIsGatedDuty : ((sessionA 1).pwmEn = true ∧ (sessionA 1).pinActive = true) ∧
    ¬ (idle.pwmEn = true ∧ idle.pinActive = true) ∧
    (sessionA 33).playing = true ∧ ∃ t, exec .tick (sessionA 33) = .next t ∧ t.playing = false :=
  ⟨by decide, by decide, rfl, _, rfl, rfl⟩

theorem witness_LaunchLeavesTheResetValues : ∃ s, s = State.launch params img pseudoStop [.host] := ⟨_, rfl⟩

theorem witness_LaunchMeetsTheInvariant : params.wf = true ∧ memWf img = true ∧ (∀ c ∈ img, c.1 < params.romSize) ∧
    ({ params with romSize := 1, clkHz := 1, tickPeriodMax := 1 } : Params).wf = true ∧
    ({ params with romSize := 65536 } : Params).wf = true := by decide

/-- A step with each agent: the terminal tick, S2, S4. -/
theorem witness_EveryStepKeepsTheInvariant : (Inv (sessionA 33) ∧ ∃ t, step (sessionA 33) = .next t ∧ t.playing = false) ∧
    (Inv { sessionA 0 with cmd := some (startCmd .s2) } ∧
      ∃ t, step { sessionA 0 with cmd := some (startCmd .s2) } = .next t) ∧
    (Inv { sessionA 0 with cmd := some (startCmd .s4) } ∧
      ∃ t, step { sessionA 0 with cmd := some (startCmd .s4) } = .next t ∧ t.cmd = none) :=
  ⟨⟨inv_terminal, _, rfl, rfl⟩, ⟨inv_s2, _, rfl⟩, inv_s4, _, rfl, rfl⟩

theorem witness_LogGrowsAndStopsStick : (∃ t, step (sessionA 0) = .next t ∧ t.log.length = 2) ∧
    ({ idle with fault := some .rateZero } : State).fault ≠ none ∧
    ({ idle with refused := some .roWrite } : State).refused ≠ none := ⟨⟨_, rfl, by decide⟩, nofun, nofun⟩

theorem witness_OnlyTheTerminalTickClearsPlaying :
    ∃ t, step ((sessionA 33).turnNext .tick) = .next t ∧ (sessionA 33).playing = true ∧ t.playing = false :=
  ⟨_, rfl, rfl, rfl⟩

theorem witness_TickEnableHasTwoWriters :
    (∃ t, step ((starting .s2).turnNext .host) = .next t ∧ (starting .s2).tickEn = false ∧ t.tickEn = true) ∧
    ∃ t, step ((sessionA 33).turnNext .tick) = .next t ∧ (sessionA 33).tickEn = true ∧ t.tickEn = false :=
  ⟨⟨_, rfl, rfl, rfl⟩, _, rfl, rfl, rfl⟩

theorem witness_BufferIsNeverForgotten : ∃ t, step ((sessionA 33).turnNext .tick) = .next t ∧ (sessionA 33).act ≠ none ∧
    (sessionA 33).last ≠ none := ⟨_, rfl, nofun, nofun⟩

theorem witness_CommandsInProgressComplete :
    (Inv { sessionA 0 with cmd := some (startCmd .s2) } ∧ Inv { sessionA 0 with cmd := some (startCmd .s4) }) ∧
    ({ sessionA 0 with cmd := some (startCmd .s2) } : State).cmd = some (startCmd .s2) := ⟨⟨inv_s2, inv_s4⟩, rfl⟩

/-- A tick of each phase. -/
theorem witness_TickFrame :
    (phase idle = some .idle ∧ ∃ t, exec .tick idle = .next t) ∧
    (phase (sessionA 2) = some .streaming ∧ ∃ t, exec .tick (sessionA 2) = .next t) ∧
    (phase (sessionPl 0x200 2) = some .advance ∧ ∃ t, exec .tick (sessionPl 0x200 2) = .next t) ∧
    (phase (sessionA 33) = some .rampDone ∧ ∃ t, exec .tick (sessionA 33) = .next t) ∧
    (phase (sessionA 32) = some .ramping ∧ ∃ t, exec .tick (sessionA 32) = .next t) :=
  ⟨⟨rfl, _, rfl⟩, ⟨rfl, _, rfl⟩, ⟨rfl, _, rfl⟩, ⟨rfl, _, rfl⟩, rfl, _, rfl⟩

/-- S1 and P1, P0, and a later micro-step. -/
theorem witness_StartFrame : (∃ t, exec .start (args 0x100 3 8000) = .next t) ∧
    (∃ t, exec .startPl (args 0x200 2 8000) = .next t) ∧ (∃ t, exec .startPl (args 0 0 0) = .next t) ∧
    (args 0x100 3 8000).cmd = none ∧ (∃ t, exec .start (starting .s3) = .next t) ∧ (starting .s3).cmd ≠ none :=
  ⟨⟨_, rfl⟩, ⟨_, rfl⟩, ⟨_, rfl⟩, rfl, ⟨_, rfl⟩, nofun⟩

theorem witness_StopFinishIsPlayingFrame : (∃ t, exec .stop (sessionA 1) = .next t) ∧
    (∃ t, exec .finish (sessionA 1) = .next t) ∧ (∃ t, exec .isPlaying (sessionA 1) = .next t) :=
  ⟨⟨_, rfl⟩, ⟨_, rfl⟩, _, rfl⟩

theorem witness_TickIgnoresHostRegisters : ∃ t, exec .tick (sessionPl 0x200 2) = .next t := ⟨_, rfl⟩

/-- Buffer A, and the one-byte buffer M with the longest ramp. -/
theorem witness_SingleBufferSession :
    ∀ x ∈ [(({ base := 0x100, len := 3 } : Descriptor), (30 : Byte)), ({ base := 0x120, len := 1 }, 255)],
    (session x.1 0 x.2).live ∧ (session x.1 0 x.2).tickEn = true ∧ (session x.1 0 x.2).playing = true ∧
    (session x.1 0 x.2).act = some x.1 ∧ (session x.1 0 x.2).last = some x.2 ∧ (session x.1 0 x.2).offset = 0 ∧
    x.1.ok params ∧ ¬ (session x.1 0 x.2).plPos.toNat + 1 < (session x.1 0 x.2).plLen.toNat := by decide

/-- The hypotheses of `Obligations.PlaylistSession`, with its `e` put in. -/
abbrev PlaylistPremises (s : State) (p : Half) (n : Nat) (v : Byte) : Prop :=
  s.live ∧ s.tickEn = true ∧ s.playing = true ∧ s.plBase = some p ∧ s.plLen.toNat = n + 1 ∧ s.plPos = 0 ∧
  p.toNat + 4 * (n + 1) ≤ s.params.romSize ∧ (∀ i ≤ n, (tableEntry s p.toNat i).ok s.params) ∧
  v = memByte s.rom ((tableEntry s p.toNat n).base.toNat + (tableEntry s p.toNat n).len.toNat - 1) ∧
  s.act = some (tableEntry s p.toNat 0) ∧ s.offset = 0 ∧ (n = 0 → s.last = some v)

/-- Both entries of table T1. -/
theorem witness_PlaylistSession : PlaylistPremises (sessionPl 0x200 0) 0x200 1 9 := by decide

/-- A playlist of one entry. -/
theorem witness_PlaylistSession_single : PlaylistPremises
    { session { base := 0x152, len := 1 } 0 9 with plBase := some 0x204, plLen := 1 } 0x204 0 9 := by decide

/-- P3's STOP in mid-stream. -/
theorem witness_StopRampsToSilence : (session { base := 0x160, len := 4 } 2 7).live ∧
    (session { base := 0x160, len := 4 } 2 7).tickEn = true ∧ (session { base := 0x160, len := 4 } 2 7).playing = true ∧
    (session { base := 0x160, len := 4 } 2 7).act = some { base := 0x160, len := 4 } ∧
    (session { base := 0x160, len := 4 } 2 7).last = some 7 ∧ 4 ≤ 32767 ∧
    ∃ t, exec .stop (session { base := 0x160, len := 4 } 2 7) = .next t :=
  ⟨by decide, rfl, rfl, rfl, rfl, by decide, _, rfl⟩

/-- The hang, with a STOP as the host's next access. -/
theorem witness_HangPersists : ∃ s, s = { sessionA 0 with tickEn := false, prog := pseudoStop } ∧ s.hang ∧
    (∃ t, step s = .next t) ∧
    ∀ (v : Word) (rest : List Access), s.prog = .write 0x00 32 v :: rest → v ≠ 1 ∧ v ≠ 2 := by
  refine ⟨_, rfl, by decide, ⟨_, rfl⟩, fun v rest hp => ?_⟩
  cases hp
  decide

/-- Vector Z3: buffer S, its terminal tick due between S3 and S4. -/
theorem witness_TerminalBeforeTheFourthStepHangs :
    ∀ s ∈ [({ session { base := 0x140, len := 1 } 1 0 with cmd := some (startCmd .s4) } : State)],
    s.live ∧ s.tickEn = true ∧ phase s = some .rampDone ∧ s.cmd = some (startCmd .s4) ∧ (startCmd .s4).k = .s4 := by
  decide

end Sys2Proof.Tests
end

section
/-! PROOFS of the family 10_state.md: `STATUS` bit by bit (R25), the amplitude (R23), the reset values (R31). -/

namespace Sys2Proof.Machine

/-! ### `STATUS` (R25) -/

theorem bitAt_eq_mul_toNat (w : Nat) (b : Bool) : bitAt w b = w * b.toNat := by
  cases b <;> simp [bitAt]

/-- The weighted sum of `statusWord` as binary digits, bit 0 outermost, so that each bit is read off by the library's
`Nat.testBit` rules. -/
theorem statusWord_eq_ofNat_bit (s : State) :
    statusWord s = BitVec.ofNat 32
      (.bit s.playing (.bit s.tickEn (.bit s.pwmEn (.bit (0 < s.plLen.toNat) (.bit (rampBit s) 0))))) := by
  simp only [statusWord, bitAt_eq_mul_toNat, Nat.bit_val]
  congr 1
  omega

theorem rampBit_iff (s : State) :
    rampBit s = true ↔ s.playing = true ∧
      ∃ d : Descriptor, s.act = some d ∧ d.len.toNat ≤ s.offset.toNat ∧ ¬ s.plPos.toNat + 1 < s.plLen.toNat := by
  unfold rampBit
  split
  next h => simp [h]
  next d h => simp [h, ← hasNext_iff]

/-- The five fields of `STATUS` from bit 0 up, and 0 in every bit above them. -/
theorem statusWord_getLsbD (s : State) (j : Nat) : (statusWord s).getLsbD j =
    [s.playing, s.tickEn, s.pwmEn, decide (0 < s.plLen.toNat), rampBit s].getD j false := by
  rw [statusWord_eq_ofNat_bit, BitVec.getLsbD_ofNat]
  match j with
  | 0 | 1 | 2 | 3 | 4 => simp [Nat.testBit_bit_succ]
  | k + 5 => simp [Nat.testBit_bit_succ]

/-! ### The amplitude (R23) -/

theorem level_of_open {s : State} (h : s.pwmEn = true ∧ s.pinActive = true) : level s = s.duty := by
  simp [level, h]

theorem level_of_closed {s : State} (h : ¬ (s.pwmEn = true ∧ s.pinActive = true)) : level s = 0 := by
  simp [level, h]

/-- Terminal closes the gate. -/
theorem level_tickTerminal (s : State) : level (tickTerminal s) = 0 :=
  level_of_closed (by simp [tickTerminal])

/-- The terminal transition is the only case of a TICK that clears `playing`. -/
theorem eq_tickTerminal_of_playing_cleared {s t : State} (hs : s.playing = true) (h : exec .tick s = .next t)
    (ht : t.playing = false) : t = tickTerminal s := by
  cases execTick_cases h with
  | terminal => rfl
  | idle hp => simp [hs] at hp
  | stream | advance | ramp => simp [tickRamp, hs] at ht

end Sys2Proof.Machine

open Sys2Proof Sys2Proof.Machine

/-- Settles O36: each bit is read off `statusWord_getLsbD`. -/
theorem statusBitsAreComputed : Obligations.StatusBitsAreComputed := by
  intro s
  simp only [statusWord_getLsbD]
  refine ⟨rfl, rfl, rfl, decide_eq_true_iff, rampBit_iff s, fun j hj => ?_⟩
  exact List.getD_eq_default _ _ hj

/-- Settles O37: the gate decides, and Terminal, the only tick that clears `playing`, closes it. -/
theorem levelIsGatedDuty : Obligations.LevelIsGatedDuty := by
  refine ⟨fun s => ⟨level_of_open, level_of_closed⟩, fun s t hs h ht => ?_⟩
  rw [eq_tickTerminal_of_playing_cleared hs h ht]
  exact level_tickTerminal s

/-- Settles O38: R31's table is the definition of `State.launch`. -/
theorem launchLeavesTheResetValues : Obligations.LaunchLeavesTheResetValues := by
  rintro p rom prog sched _ rfl
  simp [State.launch]

end

section
/-! PROOFS of the family 20_memory.md: the table of host accesses (R41), `DescRead` (R37), `CheckBuf` (R35). -/

namespace Sys2Proof.Machine

/-! ### What a step makes of an outcome (R90, R92) -/

@[simp] theorem commit_next (s t : State) : commit s (.next t) = .next t := rfl

@[simp] theorem commit_fault (s : State) (f : Fault) : commit s (.fault f) = .next (raiseFault f s) := rfl

@[simp] theorem commit_refused_host (s : State) (r : RefuseReason) :
    commit s (.refused (.host r)) = .next (refuse r s) := rfl

/-- A step that runs an instruction, faulting or not, takes nothing off the host program. -/
theorem commit_exec_prog {s t : State} {i : Instr} (h : commit s (exec i s) = .next t) : t.prog = s.prog := by
  cases he : exec i s with
  | next t' =>
    rw [he, commit_next] at h; cases h
    obtain ⟨-, -, -, -, hp, -⟩ := exec_keeps he
    exact hp
  | fault f => rw [he, commit_fault] at h; cases h; exact raiseFault_prog f s
  | refused r => exact absurd he (exec_ne_refused i s r)

/-! ### The register map (R41) -/

theorem wordAccess_eq_false_iff (off bits : Nat) : wordAccess off bits = false ↔ bits ≠ 32 ∨ off % 4 ≠ 0 := by
  simp [wordAccess, ← not_and_or]

theorem writeCmd_of_ok {v : Word} {i : Instr} (s : State) (h : decodeCmd v = .ok i) : writeCmd v s = exec i s := by
  simp [writeCmd, h]

theorem writeCmd_of_error {v : Word} {r : RefuseReason} (s : State) (h : decodeCmd v = .error r) :
    writeCmd v s = .refused (.host r) := by
  simp [writeCmd, h]

/-- The step of a host write, with a CMD write left to `writeCmd`. -/
theorem commit_hostWrite (s : State) (off bits : Nat) (v : Word) :
    commit s (hostWrite off bits v s) =
      if bits ≠ 32 ∨ off % 4 ≠ 0 then .next (refuse .badOffset s)
      else if off = 0x00 then commit s (writeCmd v s)
      else if off = 0x04 then .next { s with arg0 := v }
      else if off = 0x08 then .next { s with arg1 := v }
      else if off = 0x0C then .next { s with arg2 := v }
      else if off = 0x10 ∨ off = 0x14 then .next (refuse .roWrite s)
      else .next (refuse .badOffset s) := by
  simp only [hostWrite, wordAccess_eq_false_iff, apply_ite (commit s), commit_next, commit_refused_host]

/-- `HostRead` with `CMD`, which the model tests last, in its place as the lowest offset. -/
theorem readValue_eq (off bits : Nat) (s : State) :
    readValue off bits s =
      if bits ≠ 32 ∨ off % 4 ≠ 0 then .error .badOffset
      else if off = 0x00 then .error .woRead
      else if off = 0x04 then .ok s.arg0
      else if off = 0x08 then .ok s.arg1
      else if off = 0x0C then .ok s.arg2
      else if off = 0x10 then .ok (statusWord s)
      else if off = 0x14 then .ok s.result
      else .error .badOffset := by
  simp only [readValue, wordAccess_eq_false_iff]
  by_cases h0 : off = 0x00
  · simp [h0]
  · simp only [if_neg h0]

/-- The step of a host read. -/
theorem commit_hostRead (s : State) (off bits : Nat) :
    commit s (hostRead off bits s) =
      if bits ≠ 32 ∨ off % 4 ≠ 0 then .next (refuse .badOffset s)
      else if off = 0x00 then .next (refuse .woRead s)
      else if off = 0x04 then .next { s with reads := s.reads ++ [s.arg0] }
      else if off = 0x08 then .next { s with reads := s.reads ++ [s.arg1] }
      else if off = 0x0C then .next { s with reads := s.reads ++ [s.arg2] }
      else if off = 0x10 then .next { s with reads := s.reads ++ [statusWord s] }
      else if off = 0x14 then .next { s with reads := s.reads ++ [s.result] }
      else .next (refuse .badOffset s) := by
  rw [hostRead, readValue_eq]
  split_ifs <;> rfl

/-! ### `DescRead` (R37) -/

/-- The four bytes of an entry inside the ROM. -/
theorem descRead_of_lt {s : State} {p i : Nat} (h : p + 4 * i + 3 < s.params.romSize) :
    descRead s p i = .ok (tableEntry s p i) := by
  have h0 := memRead_of_lt (s := s) (a := p + 4 * i) (by omega)
  have h1 := memRead_of_lt (s := s) (a := p + 4 * i + 1) (by omega)
  have h2 := memRead_of_lt (s := s) (a := p + 4 * i + 2) (by omega)
  have h3 := memRead_of_lt (s := s) (a := p + 4 * i + 3) (by omega)
  simp only [descRead, h0, h1, h2, h3]
  rfl

/-- An entry that does not lie in the ROM: the fault names its first byte past the ROM. -/
theorem descRead_of_le {s : State} {p i : Nat} (h : s.params.romSize ≤ p + 4 * i + 3) :
    descRead s p i = .error (.addrRange (max s.params.romSize (p + 4 * i) : Nat)) := by
  generalize ha : max s.params.romSize (p + 4 * i) = a
  have hbad : memRead s a = .error (.addrRange a) := memRead_of_le (by omega)
  have hok (b : Nat) (hb : p + 4 * i ≤ b ∧ b < a) : memRead s b = .ok (memByte s.rom b) := memRead_of_lt (by omega)
  obtain rfl | rfl | rfl | rfl :
      a = p + 4 * i ∨ a = p + 4 * i + 1 ∨ a = p + 4 * i + 2 ∨ a = p + 4 * i + 3 := by omega
  · simp only [descRead, hbad]; rfl
  · simp only [descRead, hok (p + 4 * i) (by omega), hbad]; rfl
  · simp only [descRead, hok (p + 4 * i) (by omega), hok (p + 4 * i + 1) (by omega), hbad]; rfl
  · simp only [descRead, hok (p + 4 * i) (by omega), hok (p + 4 * i + 1) (by omega),
      hok (p + 4 * i + 2) (by omega), hbad]
    rfl

/-! ### `CheckBuf` (R35) -/

theorem checkBuf_of_zero (p : Params) {b n : Nat} (h : n = 0) : checkBuf p b n = .error (.zeroLength b n) := by
  rw [checkBuf, if_pos h]

theorem checkBuf_of_gt_lenMax (p : Params) {b n : Nat} (h : Config.lenMax < n) :
    checkBuf p b n = .error (.lengthRange b n) := by
  rw [checkBuf, if_neg (by omega), if_pos h]

theorem checkBuf_of_gt_romSize {p : Params} {b n : Nat} (h1 : 1 ≤ n) (h2 : n ≤ Config.lenMax)
    (h3 : p.romSize < b + n) :
    checkBuf p b n = .error (.addrRange (b + n : Nat)) := by
  rw [checkBuf, if_neg (by omega), if_neg (by omega), if_pos h3]

/-- The buffers `CheckBuf` accepts. -/
theorem checkBuf_ok_iff {p : Params} {b n : Nat} :
    checkBuf p b n = .ok () ↔ 1 ≤ n ∧ n ≤ Config.lenMax ∧ b + n ≤ p.romSize := by
  refine ⟨checkBuf_ok, fun ⟨h1, h2, h3⟩ => ?_⟩
  rw [checkBuf, if_neg (by omega), if_neg (by omega), if_neg (by omega)]

end Sys2Proof.Machine

open Sys2Proof Sys2Proof.Machine

/-- Settles O10: an access with no command in progress is `commit` of `hostAccess`, whose table is R41's; with one in
progress the micro-step runs and leaves the host program as it is. -/
theorem hostAccessesFollowTheRegisterMap : Obligations.HostAccessesFollowTheRegisterMap := by
  refine ⟨fun t off bits v hl hc => ?_, fun t off bits hl hc => ?_, fun t u a hc h => ?_⟩
  · rw [step_accessNext _ hl hc, hostAccess, commit_hostWrite]
    cases hd : decodeCmd v with
    | ok i => rw [writeCmd_of_ok t hd]; rfl
    | error r => rw [writeCmd_of_error t hd]; rfl
  · rw [step_accessNext _ hl hc, hostAccess, commit_hostRead]; rfl
  · obtain ⟨c, hc⟩ := Option.ne_none_iff_exists'.1 hc
    obtain ⟨hl, -⟩ := step_cases h
    rw [step_accessNext_busy (s := t) a hl hc] at h
    exact commit_exec_prog h

/-- Settles O11: inside the ROM the four reads give the entry; past it the first byte that lies outside is the fault. -/
theorem descReadIsLittleEndian : Obligations.DescReadIsLittleEndian :=
  fun _ _ _ => ⟨descRead_of_lt, fun h => ⟨_, descRead_of_le h, by omega, by omega, by omega⟩⟩

/-- Settles O12: one lemma per outcome of the three checks. -/
theorem checkBufReportsTheFirstFailure : Obligations.CheckBufReportsTheFirstFailure :=
  fun p _ _ => ⟨checkBuf_of_zero p, checkBuf_of_gt_lenMax p, checkBuf_of_gt_romSize, checkBuf_ok_iff⟩

end

section
/-! PROOFS of the family 30_encoding.md: decode and encode agree (R52, R54), reserved words are refused (R55). -/

namespace Sys2Proof

/-! ### The opcode map (R54) -/

/-- The opcode of a command, extended by a zero `RSV`, is its CMD word. -/
theorem encodeCmd_of_commandOf {op : BitVec 4} {i : Instr} (h : commandOf op = some i) :
    encodeCmd i = some (op.setWidth 32) := by
  unfold commandOf at h
  split_ifs at h with h1 h2 h3 h4 h5
  all_goals subst op; cases h; rfl

theorem commandOf_eq_none {op : BitVec 4} (h : op.toNat = 0 ∨ 6 ≤ op.toNat) : commandOf op = none := by
  revert op
  decide

/-- The words of the opcode map, one for each command and none for TICK. -/
theorem encodeCmd_eq_some_iff {i : Instr} {v : Word} :
    encodeCmd i = some v ↔
      (v = 1 ∧ i = .start) ∨ (v = 2 ∧ i = .startPl) ∨ (v = 3 ∧ i = .stop) ∨ (v = 4 ∧ i = .finish) ∨
        (v = 5 ∧ i = .isPlaying) := by
  cases i <;> simp [encodeCmd, eq_comm]

/-! ### `Decode` (R56) -/

/-- A CMD word with `RSV = 0` is its opcode field, extended by zeros. -/
theorem eq_setWidth_opField {v : Word} (h : rsvField v = 0) : v = (opField v).setWidth 32 := by
  rw [← BitVec.ofNat_toNat, opField_toNat]
  exact eq_op_of_rsv_zero v ((rsvField_eq_zero_iff v).1 h)

theorem decodeCmd_of_rsv_ne_zero {v : Word} (h : rsvField v ≠ 0) : decodeCmd v = .error .reservedBits :=
  if_pos h

theorem decodeCmd_of_reserved_op {v : Word} (h : rsvField v = 0) (hop : commandOf (opField v) = none) :
    decodeCmd v = .error .reservedOp := by
  simp [decodeCmd, h, hop]

theorem decodeCmd_eq_ok_iff {v : Word} {i : Instr} :
    decodeCmd v = .ok i ↔ rsvField v = 0 ∧ commandOf (opField v) = some i := by
  by_cases h : rsvField v = 0
  · cases hop : commandOf (opField v) <;> simp [decodeCmd, h, hop]
  · exact iff_of_false (by simp [decodeCmd_of_rsv_ne_zero h]) (fun hi => h hi.1)

/-- Decode and encode agree on all CMD words: a word that decodes is its opcode, and its opcode is the command's word;
the five words of the map decode. -/
theorem decodeCmd_eq_ok_iff_encodeCmd {v : Word} {i : Instr} : decodeCmd v = .ok i ↔ encodeCmd i = some v := by
  constructor
  · intro h
    obtain ⟨hrsv, hop⟩ := decodeCmd_eq_ok_iff.1 h
    rw [encodeCmd_of_commandOf hop, ← eq_setWidth_opField hrsv]
  · intro h
    cases i <;> cases h <;> rfl

/-! ### The tick event (R52) -/

theorem decodeEvt_eq_some_iff_encodeEvt {b : BitVec 1} {i : Instr} : decodeEvt b = some i ↔ encodeEvt i = some b := by
  cases i <;> simp [decodeEvt, encodeEvt, eq_comm]

namespace Machine

/-! ### A CMD write (R55, R56) -/

/-- The step of a CMD write with no command in progress. -/
theorem step_cmdWrite {t : State} (v : Word) (hl : t.live) (hc : t.cmd = none) :
    step (t.accessNext (.write 0x00 32 v)) = commit t (writeCmd v t) := by
  rw [step_accessNext _ hl hc, hostAccess, commit_hostWrite]
  rfl

/-- A CMD word that does not decode is refused, and only `refused` is written. -/
theorem step_cmdWrite_of_error {t : State} {v : Word} {r : RefuseReason} (hl : t.live) (hc : t.cmd = none)
    (h : decodeCmd v = .error r) :
    step (t.accessNext (.write 0x00 32 v)) = .next { t with refused := some r } := by
  rw [step_cmdWrite v hl hc, writeCmd_of_error t h, commit_refused_host]
  rfl

end Machine

end Sys2Proof

open Sys2Proof Sys2Proof.Machine

/-- Settles O2: `Decode` inverts the encoder, whose words are those of the opcode map. -/
theorem decodeAcceptsExactlyTheEncodedWords : Obligations.DecodeAcceptsExactlyTheEncodedWords :=
  ⟨fun _ _ => decodeCmd_eq_ok_iff_encodeCmd,
    fun _ _ => decodeCmd_eq_ok_iff_encodeCmd.trans encodeCmd_eq_some_iff,
    fun _ _ => decodeEvt_eq_some_iff_encodeEvt⟩

/-- Settles O3: `Decode` answers the reserved bits before it looks at the opcode, and a word it refuses writes only
`refused`. -/
theorem reservedWordsAreRefused : Obligations.ReservedWordsAreRefused := by
  intro t v hl hc
  refine ⟨fun hrsv => ?_, fun hrsv hop => ?_⟩
  · have hne : rsvField v ≠ 0 := mt (rsvField_eq_zero_iff v).1 hrsv
    exact step_cmdWrite_of_error hl hc (decodeCmd_of_rsv_ne_zero hne)
  · rw [← opField_toNat] at hop
    exact step_cmdWrite_of_error hl hc
      (decodeCmd_of_reserved_op ((rsvField_eq_zero_iff v).2 hrsv) (commandOf_eq_none hop))

end

section
/-! PROOFS of the family 40_tick.md: the idle tick (R62), Streaming (R63), the ticks that would read unwritten state (R68,
R69). -/

namespace Sys2Proof.Machine

/-! ### The reads of an Advance (R64) -/

/-- A next entry `e` that the ROM holds: `CheckBuf` on it decides, for a buffer it accepts can be read. -/
theorem advanceReads_of_descRead {s : State} {p : Half} {e : Descriptor} (hb : s.plBase = some p)
    (he : descRead s p.toNat (s.plPos.toNat + 1) = .ok e) :
    advanceReads s = (checkBuf s.params e.base.toNat e.len.toNat).map fun _ =>
      (e, memByte s.rom e.base.toNat, memByte s.rom (e.base.toNat + e.len.toNat - 1)) := by
  cases hk : checkBuf s.params e.base.toNat e.len.toNat with
  | error f => simp only [advanceReads, hb, he, bind, Except.bind, hk, Except.map]
  | ok u =>
    obtain ⟨hlen, -, hend⟩ := checkBuf_ok hk
    have hfirst : memRead s e.base.toNat = .ok (memByte s.rom e.base.toNat) := memRead_of_lt (by omega)
    have hfinal := memRead_finalAddr (s := s) (d := e) (by omega) hend
    simp only [advanceReads, hb, he, bind, Except.bind, hk, hfirst, hfinal, Except.map, pure, Except.pure]

/-- Every way the reads of an Advance fault: no table, an entry past the ROM, or what `CheckBuf` finds. -/
theorem advanceReads_error {s : State} {f : Fault} (h : advanceReads s = .error f) :
    (s.plBase = none ∧ f = .unlinkedPlaylist) ∨
    ∃ p : Half, s.plBase = some p ∧
      (descRead s p.toNat (s.plPos.toNat + 1) = .error f ∨
        ∃ e : Descriptor, descRead s p.toNat (s.plPos.toNat + 1) = .ok e ∧
          checkBuf s.params e.base.toNat e.len.toNat = .error f) := by
  cases hb : s.plBase with
  | none =>
    simp only [advanceReads, hb] at h
    cases h
    exact .inl ⟨rfl, rfl⟩
  | some p =>
    refine .inr ⟨p, rfl, ?_⟩
    cases he : descRead s p.toNat (s.plPos.toNat + 1) with
    | error g =>
      simp only [advanceReads, hb, he] at h
      cases h
      exact .inl rfl
    | ok e =>
      rw [advanceReads_of_descRead hb he] at h
      cases hk : checkBuf s.params e.base.toNat e.len.toNat with
      | error g => rw [hk] at h; cases h; exact .inr ⟨e, rfl, hk⟩
      | ok u => rw [hk] at h; cases h

/-- The only fault of `DescRead` (R37). -/
theorem descRead_error {s : State} {p i : Nat} {f : Fault} (h : descRead s p i = .error f) :
    f = .addrRange (max s.params.romSize (p + 4 * i) : Nat) := by
  rcases Nat.lt_or_ge (p + 4 * i + 3) s.params.romSize with hlt | hge
  · rw [descRead_of_lt hlt] at h; cases h
  · rw [descRead_of_le hge] at h; cases h; rfl

/-- The faults of `CheckBuf`. -/
theorem checkBuf_error {p : Params} {b n : Nat} {f : Fault} (h : checkBuf p b n = .error f) :
    f = .zeroLength b n ∨ f = .lengthRange b n ∨ f = .addrRange (b + n : Nat) := by
  unfold checkBuf at h
  split at h
  · cases h; exact .inl rfl
  split at h
  · cases h; exact .inr (.inl rfl)
  split at h
  · cases h; exact .inr (.inr rfl)
  · cases h

/-! ### Everything a TICK can fault with -/

/-- The five faulting cases of a TICK (40_tick.md R63, R64, R67 to R69), beside the completing ones of `TickCase`. -/
inductive TickFault (s : State) : Fault → Prop where
  | noBuffer (hp : s.playing = true) (ha : s.act = none) : TickFault s .noBuffer
  | stream (d : Descriptor) {f : Fault} (hp : s.playing = true) (ha : s.act = some d)
      (hlt : s.offset.toNat < d.len.toNat) (hr : memRead s (d.base.toNat + s.offset.toNat : Nat) = .error f) :
      TickFault s f
  | advance (d : Descriptor) {f : Fault} (hp : s.playing = true) (ha : s.act = some d)
      (hge : d.len.toNat ≤ s.offset.toNat) (hn : hasNext s = true) (hr : advanceReads s = .error f) : TickFault s f
  | lastUnwritten (d : Descriptor) (hp : s.playing = true) (ha : s.act = some d)
      (hge : d.len.toNat ≤ s.offset.toNat) (hn : hasNext s = false) (hl : s.last = none) : TickFault s .lastUnwritten
  | overrun (d : Descriptor) (v : Byte) (hp : s.playing = true) (ha : s.act = some d) (hn : hasNext s = false)
      (hl : s.last = some v) (hgt : d.len.toNat + v.toNat < s.offset.toNat) :
      TickFault s (.rampOverrun s.offset.toNat)

theorem exec_tick_of_idle {s : State} (hp : s.playing = false) : exec .tick s = .next s :=
  if_pos hp

theorem exec_tick_of_noBuffer {s : State} (hp : s.playing = true) (ha : s.act = none) :
    exec .tick s = .fault .noBuffer := by
  show execTick s = _
  unfold execTick
  rw [if_neg (by simp [hp]), ha]

theorem tickEnd_of_lastUnwritten {s : State} (d : Descriptor) (hl : s.last = none) :
    tickEnd d s = .fault .lastUnwritten := by
  unfold tickEnd
  rw [hl]

/-- A TICK that faults is one of its five faulting cases. -/
theorem exec_tick_fault_cases {s : State} {f : Fault} (h : exec .tick s = .fault f) : TickFault s f := by
  cases hp : s.playing with
  | false => rw [exec_tick_of_idle hp] at h; cases h
  | true =>
    cases ha : s.act with
    | none => rw [exec_tick_of_noBuffer hp ha] at h; cases h; exact .noBuffer hp ha
    | some d =>
      rw [exec_tick_of_playing hp ha] at h
      split at h
      next hlt =>
        unfold tickStream at h
        split at h
        next hr => cases h; exact .stream d hp ha hlt hr
        next => cases h
      next hge =>
        split at h
        next hn =>
          unfold tickAdvance at h
          split at h
          next hr => cases h; exact .advance d hp ha (by omega) hn hr
          next => cases h
        next hn =>
          rw [Bool.not_eq_true] at hn
          cases hl : s.last with
          | none => rw [tickEnd_of_lastUnwritten d hl] at h; cases h; exact .lastUnwritten d hp ha (by omega) hn hl
          | some v =>
            rw [tickEnd_of_last d hl] at h
            split at h
            · cases h
            split at h
            next hgt => cases h; exact .overrun d v hp ha hn hl hgt
            next => cases h

/-- The reads of a TICK never raise the faults of an unwritten `act` or `last`: these two come from `playing` with the
field none, and from nowhere else. -/
theorem unwritten_of_tickFault {s : State} {f : Fault} (h : TickFault s f) (hf : f = .noBuffer ∨ f = .lastUnwritten) :
    s.playing = true ∧ (s.act = none ∨ s.last = none) := by
  cases h with
  | noBuffer hp ha => exact ⟨hp, .inl ha⟩
  | lastUnwritten d hp ha hge hn hl => exact ⟨hp, .inr hl⟩
  | overrun => simp at hf
  | stream d hp ha hlt hr =>
    rcases memRead_cases s (d.base.toNat + s.offset.toNat : Nat) with ⟨-, -, hok⟩ | ⟨-, herr⟩
    · rw [hok] at hr; cases hr
    · rw [herr] at hr; cases hr; simp at hf
  | advance d hp ha hge hn hr =>
    obtain ⟨-, rfl⟩ | ⟨p, -, hd | ⟨e, -, hk⟩⟩ := advanceReads_error hr
    · simp at hf
    · obtain rfl := descRead_error hd
      simp at hf
    · obtain rfl | rfl | rfl := checkBuf_error hk <;> simp at hf

/-! ### Streaming (R63) -/

/-- A TICK of a playing session inside its buffer, the read inside the ROM. -/
theorem exec_tick_of_streaming {s : State} {d : Descriptor} (hp : s.playing = true) (ha : s.act = some d)
    (hlt : s.offset.toNat < d.len.toNat) (hrom : d.base.toNat + s.offset.toNat < s.params.romSize) :
    exec .tick s =
      .next (output (memByte s.rom (d.base.toNat + s.offset.toNat)) (s.offset.toNat + 1) s) := by
  rw [exec_tick_of_playing hp ha, if_pos hlt, tickStream, memRead_of_lt hrom]

/-- Below a length, `offset` counts without wrapping (R70). -/
theorem toNat_halfOf_succ {a b : Half} (h : a.toNat < b.toNat) : (halfOf (a.toNat + 1)).toNat = a.toNat + 1 := by
  rw [BitVec.toNat_ofNat, Nat.mod_eq_of_lt]
  omega

end Sys2Proof.Machine

open Sys2Proof Sys2Proof.Machine

/-- Settles O27: `playing` is the first thing a TICK reads. -/
theorem idleTickChangesNothing : Obligations.IdleTickChangesNothing :=
  fun _ => exec_tick_of_idle

/-- Settles O28: `offset` is below the length, so the read lies in the ROM and the count does not wrap. -/
theorem streamingTickOutputsTheByte : Obligations.StreamingTickOutputsTheByte := by
  intro s d hp ha hlt hrom
  have htick := exec_tick_of_streaming hp ha hlt (by omega)
  have hcount := toNat_halfOf_succ hlt
  exact ⟨_, htick, hcount, hcount.trans_le hlt, rfl⟩

/-- Settles O33: the two faults by their cases; a TICK raises them nowhere else, and `Inv.playing` excludes both. -/
theorem unwrittenStateFaults : Obligations.UnwrittenStateFaults := by
  refine ⟨fun s => exec_tick_of_noBuffer, fun s d hp ha hge hn hl => ?_, fun s hi => ?_⟩
  · rw [exec_tick_of_playing hp ha, if_neg (by omega), if_neg (mt (hasNext_iff s).1 hn),
      tickEnd_of_lastUnwritten d hl]
  · have written (f : Fault) (hf : f = .noBuffer ∨ f = .lastUnwritten) : exec .tick s ≠ .fault f := by
      intro h
      obtain ⟨hp, hnone⟩ := unwritten_of_tickFault (exec_tick_fault_cases h) hf
      obtain ⟨hact, hlast⟩ := hi.playing hp
      exact hnone.elim hact hlast
    exact ⟨written _ (.inl rfl), written _ (.inr rfl)⟩

end

section
/-! PROOFS of the family 41_sequencer.md: START's checks (R77), S2, S3 and S4 (R79 to R81), the empty playlist (R84),
START_PL's checks and P1 (R85). -/

namespace Sys2Proof.Machine

/-! ### The rate (R77 checks 3 and 4, R85 checks 5 and 6) -/

theorem checkRate_of_zero (p : Params) {r : Word} (h : r.toNat = 0) : checkRate p r = .error .rateZero :=
  if_pos h

theorem checkRate_of_period {p : Params} {r : Word} (h0 : r.toNat ≠ 0)
    (h : tickPeriodOf p r = 0 ∨ p.tickPeriodMax < tickPeriodOf p r) :
    checkRate p r = .error (.periodRange (tickPeriodOf p r)) := by
  rw [checkRate, if_neg h0, if_pos h]

/-! ### START's checks (R77) -/

theorem startChecks_of_base (s : State) {a0 : Word} (a1 a2 : Word) (h : Config.addrSpace ≤ a0.toNat) :
    startChecks s a0 a1 a2 = .error (.addrRange a0.toNat) :=
  if_pos h

/-- With the base an address, what `CheckBuf` finds comes before the rate is looked at. -/
theorem startChecks_of_checkBuf_error {s : State} {a0 a1 : Word} (a2 : Word) {f : Fault}
    (h : a0.toNat < Config.addrSpace) (hb : checkBuf s.params a0.toNat a1.toNat = .error f) :
    startChecks s a0 a1 a2 = .error f := by
  rw [startChecks, if_neg (Nat.not_le.2 h), hb]
  rfl

theorem startChecks_of_checkRate_error {s : State} {a0 a1 a2 : Word} {f : Fault} (h : a0.toNat < Config.addrSpace)
    (hb : checkBuf s.params a0.toNat a1.toNat = .ok ()) (hr : checkRate s.params a2 = .error f) :
    startChecks s a0 a1 a2 = .error f := by
  rw [startChecks, if_neg (Nat.not_le.2 h), hb, hr]
  rfl

/-- START with no command in progress faults with what its checks find. -/
theorem exec_start_of_error {s : State} {f : Fault} (hc : s.cmd = none)
    (h : startChecks s s.arg0 s.arg1 s.arg2 = .error f) : exec .start s = .fault f := by
  show execStart s = _
  unfold execStart startS1
  rw [hc, h]

/-! ### START_PL's checks (R84, R85) -/

/-- START_PL with no command in progress: P0 for an empty playlist, before any check, else P1. -/
theorem exec_startPl_of_idle {s : State} (hc : s.cmd = none) :
    exec .startPl s = if s.arg1.toNat = 0 then .next s else startPlP1 s := by
  show execStartPl s = _
  unfold execStartPl
  rw [hc]

theorem plChecks_of_count (s : State) (a0 : Word) {a1 : Word} (a2 : Word) (h : Config.plMax < a1.toNat) :
    plChecks s a0 a1 a2 = .error (.countRange a1.toNat) :=
  if_pos h

theorem plChecks_of_base (s : State) {a0 a1 : Word} (a2 : Word) (hn : a1.toNat ≤ Config.plMax)
    (h : Config.addrSpace ≤ a0.toNat) : plChecks s a0 a1 a2 = .error (.addrRange a0.toNat) := by
  rw [plChecks, if_neg (Nat.not_lt.2 hn), if_pos h]

theorem plChecks_of_table {s : State} {a0 a1 : Word} (a2 : Word) (hn : a1.toNat ≤ Config.plMax)
    (hb : a0.toNat < Config.addrSpace) (h : s.params.romSize < a0.toNat + 4 * a1.toNat) :
    plChecks s a0 a1 a2 = .error (.addrRange (a0.toNat + 4 * a1.toNat : Nat)) := by
  rw [plChecks, if_neg (Nat.not_lt.2 hn), if_neg (Nat.not_le.2 hb), if_pos h]

/-- With a table of at least one entry in the ROM, entry 0 can be read and the rest is the checks of its buffer and of the
rate. -/
theorem plChecks_of_table_ok {s : State} {a0 a1 : Word} (a2 : Word) (h1 : 1 ≤ a1.toNat) (hn : a1.toNat ≤ Config.plMax)
    (hb : a0.toNat < Config.addrSpace) (ht : a0.toNat + 4 * a1.toNat ≤ s.params.romSize) :
    plChecks s a0 a1 a2 =
      (checkBuf s.params (tableEntry s a0.toNat 0).base.toNat (tableEntry s a0.toNat 0).len.toNat).bind fun _ =>
        (checkRate s.params a2).map fun _ => tableEntry s a0.toNat 0 := by
  rw [plChecks, if_neg (Nat.not_lt.2 hn), if_neg (Nat.not_le.2 hb), if_neg (Nat.not_lt.2 ht),
    descRead_of_lt (by omega)]
  rfl

theorem startPlP1_of_error {s : State} {f : Fault} (h : plChecks s s.arg0 s.arg1 s.arg2 = .error f) :
    startPlP1 s = .fault f := by
  rw [startPlP1, h]

theorem startPlP1_of_ok {s : State} {d : Descriptor} (h : plChecks s s.arg0 s.arg1 s.arg2 = .ok d) :
    startPlP1 s = .next (latchCmd .startPl d (loadBuffer d
      { s with plBase := some (halfOf s.arg0.toNat), plLen := halfOf s.arg1.toNat, plPos := 0 })) := by
  rw [startPlP1, h]

/-! ### The later micro-steps (R79, R80, R81) -/

theorem startTail_of_s2 {s : State} {c : Cmd} (hk : c.k = .s2) (hr : c.a2.toNat ≠ 0) :
    startTail c s =
      .next { openOutput (tickPeriodOf s.params c.a2) s with cmd := some { c with k := .s3 } } := by
  rw [startTail, hk]
  exact if_neg hr

theorem startTail_of_s3 {s : State} {c : Cmd} {v : Byte} (hk : c.k = .s3) (hr : memRead s c.buf.finalAddr = .ok v) :
    startTail c s = .next { s with last := some v, cmd := some { c with k := .s4 } } := by
  rw [startTail, hk]
  show startS3 c s = _
  rw [startS3, hr]

theorem startTail_of_s4 {s : State} {c : Cmd} (hk : c.k = .s4) :
    startTail c s = .next { s with playing := true, cmd := none } := by
  rw [startTail, hk]
  rfl

/-- Among all instructions only the fourth micro-step of a command in progress makes `playing` true. -/
theorem s4_of_exec_sets_playing {i : Instr} {s t : State} (h : exec i s = .next t) (hs : s.playing = false)
    (ht : t.playing = true) : t.cmd = none ∧ ∃ c : Cmd, s.cmd = some c ∧ c.k = .s4 := by
  have hne : t.playing ≠ s.playing := by simp [hs, ht]
  cases exec_cases h with
  | start hi h =>
    cases h with
    | s4 c hc hk => exact ⟨rfl, c, hc, hk⟩
    | s1 | p0 | p1 | s2 | s3 => exact absurd rfl hne
  | stop => exact absurd (by rw [stopOffset_eq]; rfl) hne
  | finish | isPlaying => exact absurd rfl hne
  | tick h =>
    cases h with
    | idle => exact absurd rfl hne
    | stream d v hp | advance d e first final hp | terminal d v hp | ramp d v hp => simp [hs] at hp

end Sys2Proof.Machine

open Sys2Proof Sys2Proof.Machine

/-- Settles O15: one lemma per check, each with the checks before it passed. -/
theorem startRaisesTheFirstFailingCheck : Obligations.StartRaisesTheFirstFailingCheck := by
  intro s hc
  refine ⟨fun h0 => ?_, fun h0 hz => ?_, fun h0 hlen => ?_, fun h0 h1 hlen => ⟨fun hend => ?_, fun hend => ?_⟩⟩
  · exact exec_start_of_error hc (startChecks_of_base s _ _ h0)
  · rw [← hz]
    exact exec_start_of_error hc (startChecks_of_checkBuf_error _ h0 (checkBuf_of_zero _ hz))
  · exact exec_start_of_error hc (startChecks_of_checkBuf_error _ h0 (checkBuf_of_gt_lenMax _ hlen))
  · exact exec_start_of_error hc (startChecks_of_checkBuf_error _ h0 (checkBuf_of_gt_romSize h1 hlen hend))
  · have hbuf := checkBuf_ok_iff.2 ⟨h1, hlen, hend⟩
    refine ⟨fun hr => ?_, fun hr hp => ?_⟩
    · exact exec_start_of_error hc (startChecks_of_checkRate_error h0 hbuf (checkRate_of_zero _ hr))
    · exact exec_start_of_error hc (startChecks_of_checkRate_error h0 hbuf (checkRate_of_period hr hp))

/-- Settles O16: the period of `openOutput` is the floor quotient. -/
theorem secondMicroStepOpensTheOutput : Obligations.SecondMicroStepOpensTheOutput := by
  intro s c i hi hc hk hr
  rw [exec_of_cmd hi hc, startTail_of_s2 hk hr]
  rfl

/-- Settles O17: the read is of the latched `c.buf`, and lies in the ROM. -/
theorem thirdMicroStepCachesTheFinalByte : Obligations.ThirdMicroStepCachesTheFinalByte := by
  intro s c i hi hc hk h1 hend
  rw [exec_of_cmd hi hc, startTail_of_s3 hk (memRead_finalAddr h1 hend)]

/-- Settles O18: a step that runs an instruction sets `playing` by S4 alone, and every other step leaves `playing`. -/
theorem onlyTheFourthMicroStepSetsPlaying : Obligations.OnlyTheFourthMicroStepSetsPlaying := by
  refine ⟨fun s c i hi hc hk => ?_, fun s t h hs ht => ?_⟩
  · rw [exec_of_cmd hi hc, startTail_of_s4 hk]
  · obtain ⟨-, p, q, hcase⟩ := step_cases h
    cases hcase with
    | instr i ho he => exact s4_of_exec_sets_playing (s := s.withInput p q) he hs ht
    | fault | refuse | arg0 | arg1 | arg2 | read | pass => simp [hs] at ht

/-- Settles O19: the count is looked at before any check, and the CMD word 2 is START_PL's. -/
theorem emptyPlaylistIsANoOp : Obligations.EmptyPlaylistIsANoOp := by
  intro t hc hz
  have hexec : exec .startPl t = .next t := by rw [exec_startPl_of_idle hc, if_pos hz]
  have hword : decodeCmd 2 = .ok .startPl := decodeCmd_eq_ok_iff_encodeCmd.2 rfl
  refine ⟨hexec, fun hl => ?_⟩
  rw [step_cmdWrite 2 hl hc, writeCmd_of_ok t hword, hexec, commit_next]

/-- Settles O20: one lemma per check up to the table; with the table in the ROM, the buffer of entry 0 and the rate
decide. -/
theorem startPlChecksThenLoadsEntryZero : Obligations.StartPlChecksThenLoadsEntryZero := by
  intro s hc h1
  rw [exec_startPl_of_idle hc, if_neg (by omega)]
  refine ⟨fun hn => ?_, fun hn h0 => ?_, fun hn h0 hend => ?_, fun hn h0 hend => ?_⟩
  · exact startPlP1_of_error (plChecks_of_count s _ _ hn)
  · exact startPlP1_of_error (plChecks_of_base s _ hn h0)
  · exact startPlP1_of_error (plChecks_of_table _ hn h0 hend)
  · have hchecks := plChecks_of_table_ok s.arg2 h1 hn h0 hend
    cases hbuf : checkBuf s.params (tableEntry s s.arg0.toNat 0).base.toNat (tableEntry s s.arg0.toNat 0).len.toNat with
    | error f =>
      rw [hbuf] at hchecks
      exact startPlP1_of_error hchecks
    | ok u =>
      rw [hbuf] at hchecks
      show startPlP1 s = if _ then _ else _
      split_ifs with hr hp
      · rw [checkRate_of_zero _ hr] at hchecks
        exact startPlP1_of_error hchecks
      · rw [checkRate_of_period hr hp] at hchecks
        exact startPlP1_of_error hchecks
      · obtain ⟨hpos, hmax⟩ := not_or.1 hp
        have hperiod : s.params.periodOk (tickPeriodOf s.params s.arg2) := ⟨Nat.pos_of_ne_zero hpos, Nat.not_lt.1 hmax⟩
        rw [checkRate_of_ok hr hperiod] at hchecks
        exact startPlP1_of_ok hchecks

end

section
/-! PROOFS of the family 60_exceptions.md: what a fault writes (R90), what a refusal writes (R92), and that both stick. -/

namespace Sys2Proof.Machine

/-! ### Both stick (R90, R92) -/

/-- A recorded fault is what every later step answers. -/
theorem step_of_fault {s : State} {f : Fault} (h : s.fault = some f) : step s = .fault f := by
  simp [step, agentStep, h]

/-- A final state has neither fault nor refusal recorded (R12). -/
theorem live_of_final {s : State} (h : s.final = true) : s.live := by
  simp only [State.final, Bool.and_eq_true, Option.isNone_iff_eq_none] at h
  obtain ⟨⟨-, hf⟩, hr⟩ := h
  exact ⟨hf, hr⟩

theorem final_eq_false_of_not_live {s : State} (h : ¬ s.live) : s.final = false :=
  Bool.eq_false_iff.2 (mt live_of_final h)

theorem step_ne_next_of_not_live {s : State} (h : ¬ s.live) (t : State) : step s ≠ .next t :=
  fun ht => h (step_cases ht).1

/-! ### What a stopping step writes (R90, R92) -/

/-- A step records a fault only by raising it, in the state the step acts in, so that none of the step's writes shows. -/
theorem eq_raiseFault_of_stepCase {s u t : State} {f : Fault} (h : StepCase s u t) (hu : u.fault = none)
    (ht : t.fault = some f) : t = raiseFault f u := by
  cases h with
  | fault => cases ht; rfl
  | instr i _ he =>
    obtain ⟨hf, -⟩ := exec_keeps he
    simp [hf, hu] at ht
  | refuse | arg0 | arg1 | arg2 | read | pass => simp [hu] at ht

/-- A step records a refusal only by refusing, in the state the step acts in. -/
theorem eq_refuse_of_stepCase {s u t : State} {r : RefuseReason} (h : StepCase s u t) (hu : u.refused = none)
    (ht : t.refused = some r) : t = refuse r u := by
  cases h with
  | refuse => cases ht; rfl
  | instr i _ he =>
    obtain ⟨-, hr, -⟩ := exec_keeps he
    simp [hr, hu] at ht
  | fault | arg0 | arg1 | arg2 | read | pass => simp [hu] at ht

end Sys2Proof.Machine

open Sys2Proof Sys2Proof.Machine

/-- Settles O8: of the cases of a step only `raiseFault` records a fault, and it acts on the state before the step's
writes. -/
theorem faultsDropTheWritesAndStick : Obligations.FaultsDropTheWritesAndStick := by
  refine ⟨fun s t f h ht => ?_, fun s f hf => ?_, fun t i f he => ?_⟩
  · obtain ⟨⟨hf, -⟩, p, q, hcase⟩ := step_cases h
    obtain rfl := eq_raiseFault_of_stepCase hcase hf ht
    rfl
  · have hstop : ¬ s.live := fun hl => by simp [hl.1] at hf
    exact ⟨step_of_fault hf, final_eq_false_of_not_live hstop⟩
  · rw [he, commit_fault]
    rfl

/-- Settles O9: of the cases of a step only `refuse` records a refusal, and only a live state has a step. -/
theorem refusalsWriteOnlyRefused : Obligations.RefusalsWriteOnlyRefused := by
  refine ⟨fun s t r h ht => ?_, fun s hr => ?_⟩
  · obtain ⟨⟨-, hr⟩, p, q, hcase⟩ := step_cases h
    obtain rfl := eq_refuse_of_stepCase hcase hr ht
    rfl
  · have hstop : ¬ s.live := fun hl => hr hl.2
    exact ⟨final_eq_false_of_not_live hstop, step_ne_next_of_not_live hstop⟩

end

section
/-! PROOFS of the family other, the invariant: it holds at every launch (10_state.md section 7), and every step of either agent
keeps it. One lemma for each shared update of the state says what the update needs to keep it; an instruction's case is a
chain of these. -/

namespace Sys2Proof.Machine

/-! ### Each update of the state keeps the invariant -/

/-- A command in progress stays well formed while no buffer and no `last` is forgotten. -/
theorem CmdInv.mono {s t : State} {c : Cmd} (h : CmdInv s c) (hparams : t.params = s.params)
    (hact : s.act ≠ none → t.act ≠ none) (hlast : s.last ≠ none → t.last ≠ none) : CmdInv t c where
  buf := hparams ▸ h.buf
  rate := h.rate
  period := hparams ▸ h.period
  active := hact h.active
  cached := fun hk => hlast (h.cached hk)

/-- The fields the invariant does not read may change. -/
theorem inv_of_unread {s t : State} (h : Inv s)
    (ht : t = { s with
      duty := t.duty, arg0 := t.arg0, arg1 := t.arg1, arg2 := t.arg2, fault := t.fault, refused := t.refused
      log := t.log, prog := t.prog, sched := t.sched, reads := t.reads, draws := t.draws }) : Inv t := by
  rw [ht]
  exact { h with cmd := fun c hc => (h.cmd c hc).mono rfl id id }

theorem inv_withResult {s : State} (h : Inv s) {v : Word} (hv : v.toNat ≤ 1) : Inv { s with result := v } :=
  { h with
    cmd := fun c hc => (h.cmd c hc).mono rfl id id
    result := hv }

theorem inv_withOffset {s : State} (h : Inv s) {o : Half}
    (ho : ∀ d, s.act = some d → o.toNat ≤ d.len.toNat + 255) : Inv { s with offset := o } :=
  { h with
    cmd := fun c hc => (h.cmd c hc).mono rfl id id
    offset := ho }

theorem inv_output {s : State} (h : Inv s) (v : Byte) {k : Nat}
    (hk : ∀ d, s.act = some d → k ≤ d.len.toNat + 255) : Inv (output v k s) := by
  have ho (d : Descriptor) (hd : s.act = some d) : (halfOf k).toNat ≤ d.len.toNat + 255 := by
    rw [BitVec.toNat_ofNat]
    exact (Nat.mod_le _ _).trans (hk d hd)
  exact inv_of_unread (inv_withOffset h ho) rfl

theorem inv_clearPlaylist {s : State} (h : Inv s) : Inv (clearPlaylist s) :=
  { h with
    cmd := fun c hc => (h.cmd c hc).mono rfl id id
    playlist := fun hlt => absurd hlt (Nat.lt_irrefl 0) }

/-- A playlist whose table lies in the ROM (R85), at its first entry. -/
theorem inv_withPlaylist {s : State} (h : Inv s) {p n : Half} (ht : p.toNat + 4 * n.toNat ≤ s.params.romSize) :
    Inv { s with plBase := some p, plLen := n, plPos := 0 } :=
  { h with
    cmd := fun c hc => (h.cmd c hc).mono rfl id id
    playlist := fun hlt => ⟨hlt, p, rfl, ht⟩ }

theorem inv_loadBuffer {s : State} (h : Inv s) {d : Descriptor} (hd : d.ok s.params) : Inv (loadBuffer d s) :=
  { h with
    act := fun _ he => Option.some.inj he ▸ hd
    offset := fun _ _ => Nat.zero_le _
    ticking := fun ht => ⟨nofun, (h.ticking ht).2⟩
    playing := fun hp => ⟨nofun, (h.playing hp).2⟩
    cmd := fun c hc => (h.cmd c hc).mono rfl (fun _ => nofun) id }

/-- What an Advance writes before it outputs (R64): the next entry of the playlist becomes active, with its final byte. -/
theorem inv_withEntry {s : State} (h : Inv s) {d : Descriptor} (hd : d.ok s.params) (final : Byte)
    (hn : s.plPos.toNat + 1 < s.plLen.toNat) :
    Inv { s with plPos := halfOf (s.plPos.toNat + 1), act := some d, last := some final, offset := 0 } := by
  obtain ⟨-, htable⟩ := h.playlist (by omega)
  have hpos : (halfOf (s.plPos.toNat + 1)).toNat = s.plPos.toNat + 1 := toNat_halfOf_succ (b := s.plLen) (by omega)
  exact { h with
    act := fun _ he => Option.some.inj he ▸ hd
    offset := fun _ _ => Nat.zero_le _
    playlist := fun _ => ⟨hpos.trans_lt hn, htable⟩
    ticking := fun ht => ⟨nofun, (h.ticking ht).2⟩
    playing := fun _ => ⟨nofun, nofun⟩
    cmd := fun c hc => (h.cmd c hc).mono rfl (fun _ => nofun) fun _ => nofun }

theorem inv_withCmd {s : State} (h : Inv s) {c : Cmd} (hc : CmdInv s c) : Inv { s with cmd := some c } :=
  { h with cmd := fun _ he => Option.some.inj he ▸ hc.mono rfl id id }

/-- What S1 and P1 latch, their checks passed. -/
theorem inv_latchCmd {s : State} (h : Inv s) (op : CmdOp) {d : Descriptor} (hd : d.ok s.params) (hr : s.arg2.toNat ≠ 0)
    (hp : s.params.periodOk (tickPeriodOf s.params s.arg2)) (ha : s.act ≠ none) : Inv (latchCmd op d s) :=
  inv_withCmd h ⟨hd, hr, hp, ha, nofun⟩

theorem inv_openOutput {s : State} (h : Inv s) {p : Nat} (hp : s.params.periodOk p) (ha : s.act ≠ none) :
    Inv (openOutput p s) :=
  { h with
    enables := ⟨rfl, rfl⟩
    period := fun _ he => Option.some.inj he ▸ hp
    ticking := fun _ => ⟨ha, nofun⟩
    cmd := fun c hc => (h.cmd c hc).mono rfl id id }

theorem inv_closeOutput {s : State} (h : Inv s) : Inv (closeOutput s) :=
  { h with
    enables := ⟨rfl, rfl⟩
    ticking := nofun
    cmd := fun c hc => (h.cmd c hc).mono rfl id id }

theorem inv_withLast {s : State} (h : Inv s) (v : Byte) : Inv { s with last := some v } :=
  { h with
    playing := fun hp => ⟨(h.playing hp).1, nofun⟩
    cmd := fun c hc => (h.cmd c hc).mono rfl id fun _ => nofun }

theorem inv_withPlaying {s : State} (h : Inv s) {b : Bool} (hb : b = true → s.act ≠ none ∧ s.last ≠ none) :
    Inv { s with playing := b } :=
  { h with
    playing := hb
    cmd := fun c hc => (h.cmd c hc).mono rfl id id }

theorem inv_withoutCmd {s : State} (h : Inv s) : Inv { s with cmd := none } :=
  { h with cmd := nofun }

theorem inv_stopOffset {s : State} (h : Inv s) : Inv (stopOffset s) := by
  unfold stopOffset
  split
  next d ha => exact inv_withOffset h fun e he => by cases ha.symm.trans he; exact Nat.le_add_right ..
  next ha =>
    have hdraw := inv_withOffset h (o := Config.drawOffset s.draws) fun e he => nomatch ha.symm.trans he
    exact inv_of_unread hdraw rfl

theorem toNat_playingWord_le (s : State) : (playingWord s).toNat ≤ 1 := by
  unfold playingWord bitAt
  split <;> decide

/-! ### Every instruction keeps the invariant -/

/-- A TICK, case by case: what it counts stays within R19, and it loads only buffers that `CheckBuf` accepts. -/
theorem inv_tickCase {s t : State} (h : Inv s) (hcase : TickCase s t) : Inv t := by
  cases hcase with
  | idle => exact h
  | stream d v hp ha hlt hr =>
    exact inv_output h v fun e he => by cases ha.symm.trans he; omega
  | advance d e first final hp ha hge hn hr =>
    obtain ⟨-, -, -, hok, -, -⟩ := advanceReads_ok hr
    exact inv_output (inv_withEntry h hok final ((hasNext_iff s).1 hn)) first fun _ _ => by omega
  | terminal => exact inv_clearPlaylist (inv_closeOutput (inv_withPlaying h nofun))
  | ramp d v hp ha hge hn hl hlt =>
    exact inv_output h _ fun e he => by cases ha.symm.trans he; omega

/-- A micro-step of START or START_PL: the first latches what its checks accept, the later ones use what is latched. -/
theorem inv_startCase {s t : State} {i : Instr} (h : Inv s) (hcase : StartCase s i t) : Inv t := by
  cases hcase with
  | s1 d hc hk =>
    obtain ⟨-, -, hd, hr, hp⟩ := startChecks_ok hk
    exact inv_latchCmd (inv_loadBuffer (inv_clearPlaylist h) hd) .start hd hr hp nofun
  | p0 => exact h
  | p1 d hc hz hk =>
    obtain ⟨hn, hb, ht, -, hd, hr, hp⟩ := plChecks_ok hk
    have hb' : (halfOf s.arg0.toNat).toNat = s.arg0.toNat := Nat.mod_eq_of_lt hb
    have hn' : (halfOf s.arg1.toNat).toNat = s.arg1.toNat := Nat.mod_eq_of_lt (Nat.lt_succ_of_le hn)
    have htable : (halfOf s.arg0.toNat).toNat + 4 * (halfOf s.arg1.toNat).toNat ≤ s.params.romSize := by
      rwa [hb', hn']
    exact inv_latchCmd (inv_loadBuffer (inv_withPlaylist h htable) hd) .startPl hd hr hp nofun
  | s2 c hc hk hr =>
    have hi := h.cmd c hc
    exact inv_withCmd (inv_openOutput h hi.period hi.active) ⟨hi.buf, hi.rate, hi.period, hi.active, nofun⟩
  | s3 c v hc hk hr =>
    have hi := h.cmd c hc
    exact inv_withCmd (inv_withLast h v) ⟨hi.buf, hi.rate, hi.period, hi.active, fun _ => nofun⟩
  | s4 c hc hk =>
    have hi := h.cmd c hc
    exact inv_withoutCmd (inv_withPlaying h fun _ => ⟨hi.active, hi.cached hk⟩)

theorem inv_exec {i : Instr} {s t : State} (h : Inv s) (he : exec i s = .next t) : Inv t := by
  cases exec_cases he with
  | start hi hcase => exact inv_startCase h hcase
  | stop => exact inv_stopOffset (inv_clearPlaylist h)
  | finish => exact inv_clearPlaylist h
  | isPlaying => exact inv_withResult h (toNat_playingWord_le s)
  | tick hcase => exact inv_tickCase h hcase

/-! ### The launch (10_state.md section 7) -/

theorem inv_launch {p : Params} {rom : List Host.Cell} (prog : List Access) (sched : List Agent) (hp : p.wf = true)
    (hrom : memWf rom = true) (hend : ∀ c ∈ rom, c.1 < p.romSize) : Inv (State.launch p rom prog sched) where
  params := hp
  rom := hrom
  romEnd := hend
  act := nofun
  offset := nofun
  playlist := fun hlt => absurd hlt (Nat.lt_irrefl 0)
  enables := ⟨rfl, rfl⟩
  period := nofun
  ticking := nofun
  playing := nofun
  cmd := nofun
  result := Nat.zero_le 1

/-- Whatever the free values are, the launch parameters of reset lie in the ranges of R6. -/
theorem openParams_wf : Config.openParams.wf = true := by
  have hsize : Config.freeRomTop.toNat + 1 ≤ 65536 := Config.freeRomTop.isLt
  simp [Params.wf, Config.openParams, Config.addrSpace, hsize]

end Sys2Proof.Machine

open Sys2Proof Sys2Proof.Machine

/-- Settles O42: a step acts in a state that differs in its input only; there an instruction keeps the invariant, and every
other case writes fields the invariant does not read. -/
theorem everyStepKeepsTheInvariant : Obligations.EveryStepKeepsTheInvariant := by
  intro s t hs h
  obtain ⟨-, p, q, hcase⟩ := step_cases h
  have hu : Inv (s.withInput p q) := inv_of_unread hs rfl
  cases hcase with
  | instr i ho he => exact inv_exec hu he
  | fault | refuse | arg0 | arg1 | arg2 | read => exact inv_of_unread hu rfl
  | pass => exact hu

/-- Settles O41: nothing is loaded, enabled or in progress at launch. -/
theorem launchMeetsTheInvariant : Obligations.LaunchMeetsTheInvariant :=
  fun _ _ prog sched => inv_launch prog sched

/-- Settles O40: reset is the launch with the open parameters and an empty ROM. -/
theorem resetMeetsTheInvariant : Obligations.ResetMeetsTheInvariant :=
  inv_launch [] [] openParams_wf rfl nofun

end

section
/-! PROOFS of the family other, TICK (40_tick.md): the phase of each of its cases (10_state.md R29), Advance, Terminal and
Ramping (R61, R64 to R67), what a TICK can fault with, and its frame. -/

namespace Sys2Proof.Machine

/-! ### The phase of each case (10_state.md R29) -/

theorem phase_of_idle {s : State} (hp : s.playing = false) : phase s = some .idle :=
  if_pos hp

/-- The phase of a playing session with a buffer, unfolded once. -/
theorem phase_of_playing {s : State} {d : Descriptor} (hp : s.playing = true) (ha : s.act = some d) :
    phase s =
      if s.offset.toNat < d.len.toNat then some .streaming
      else if hasNext s then some .advance
      else s.last.map fun v => if s.offset.toNat = d.len.toNat + v.toNat then .rampDone else .ramping := by
  unfold phase
  rw [if_neg (by simp [hp]), ha]
  cases s.last with
  | none => rfl
  | some v => simp only [Option.map_some, apply_ite some]

theorem phase_of_noBuffer {s : State} (hp : s.playing = true) (ha : s.act = none) : phase s = none := by
  unfold phase
  rw [if_neg (by simp [hp]), ha]

theorem phase_of_streaming {s : State} {d : Descriptor} (hp : s.playing = true) (ha : s.act = some d)
    (hlt : s.offset.toNat < d.len.toNat) : phase s = some .streaming := by
  rw [phase_of_playing hp ha, if_pos hlt]

theorem phase_of_advance {s : State} {d : Descriptor} (hp : s.playing = true) (ha : s.act = some d)
    (hge : d.len.toNat ≤ s.offset.toNat) (hn : hasNext s = true) : phase s = some .advance := by
  rw [phase_of_playing hp ha, if_neg (by omega), if_pos hn]

theorem phase_of_terminal {s : State} {d : Descriptor} {v : Byte} (hp : s.playing = true) (ha : s.act = some d)
    (hn : hasNext s = false) (hl : s.last = some v) (he : s.offset.toNat = d.len.toNat + v.toNat) :
    phase s = some .rampDone := by
  rw [phase_of_playing hp ha, if_neg (by omega), if_neg (by simp [hn]), hl, Option.map_some, if_pos he]

theorem phase_of_ramping {s : State} {d : Descriptor} {v : Byte} (hp : s.playing = true) (ha : s.act = some d)
    (hge : d.len.toNat ≤ s.offset.toNat) (hn : hasNext s = false) (hl : s.last = some v)
    (hlt : s.offset.toNat < d.len.toNat + v.toNat) : phase s = some .ramping := by
  rw [phase_of_playing hp ha, if_neg (by omega), if_neg (by simp [hn]), hl, Option.map_some, if_neg (by omega)]

/-- A phase but Idle is that of a playing session with a buffer. -/
theorem playing_of_phase {s : State} {ph : Phase} (h : phase s = some ph) (hne : ph ≠ .idle) :
    s.playing = true ∧ ∃ d, s.act = some d := by
  cases hp : s.playing with
  | false => exact absurd (Option.some.inj ((phase_of_idle hp).symm.trans h)).symm hne
  | true =>
    cases ha : s.act with
    | none => cases (phase_of_noBuffer hp ha).symm.trans h
    | some d => exact ⟨rfl, d, rfl⟩

/-- What the phase Advance says of the state. -/
theorem advance_of_phase {s : State} (h : phase s = some .advance) :
    ∃ d, s.playing = true ∧ s.act = some d ∧ d.len.toNat ≤ s.offset.toNat ∧ hasNext s = true := by
  obtain ⟨hp, d, ha⟩ := playing_of_phase h nofun
  rw [phase_of_playing hp ha] at h
  split at h; · cases h
  split at h
  next hge hn => exact ⟨d, hp, ha, Nat.not_lt.1 hge, hn⟩
  next =>
    obtain ⟨v, -, hv⟩ := Option.map_eq_some_iff.1 h
    split at hv <;> cases hv

/-- What the phase RampDone says of the state: the premises of the terminal tick. -/
theorem terminal_of_phase {s : State} (h : phase s = some .rampDone) : TickCase s (tickTerminal s) := by
  obtain ⟨hp, d, ha⟩ := playing_of_phase h nofun
  rw [phase_of_playing hp ha] at h
  split at h; · cases h
  split at h; · cases h
  next hn =>
    obtain ⟨v, hl, hv⟩ := Option.map_eq_some_iff.1 h
    split at hv
    next he => exact .terminal d v hp ha (Bool.eq_false_iff.2 hn) hl he
    next => cases hv

/-! ### The cases of a TICK, run -/

theorem hasNext_eq_false_iff (s : State) : hasNext s = false ↔ ¬ s.plPos.toNat + 1 < s.plLen.toNat := by
  rw [← hasNext_iff, Bool.not_eq_true]

theorem exec_tick_of_advance {s : State} {d : Descriptor} (hp : s.playing = true) (ha : s.act = some d)
    (hge : d.len.toNat ≤ s.offset.toNat) (hn : hasNext s = true) : exec .tick s = tickAdvance s := by
  rw [exec_tick_of_playing hp ha, if_neg (by omega), if_pos hn]

theorem exec_tick_of_end {s : State} {d : Descriptor} (hp : s.playing = true) (ha : s.act = some d)
    (hge : d.len.toNat ≤ s.offset.toNat) (hn : hasNext s = false) : exec .tick s = tickEnd d s := by
  rw [exec_tick_of_playing hp ha, if_neg (by omega), if_neg (by simp [hn])]

/-- The converse of `execTick_cases`: each of the five cases is a run of TICK. -/
theorem exec_tick_of_case {s t : State} (h : TickCase s t) : exec .tick s = .next t := by
  cases h with
  | idle hp => exact exec_tick_of_idle hp
  | stream d v hp ha hlt hr => rw [exec_tick_of_playing hp ha, if_pos hlt, tickStream, hr]
  | advance d e first final hp ha hge hn hr => rw [exec_tick_of_advance hp ha hge hn, tickAdvance, hr]
  | terminal d v hp ha hn hl he =>
    rw [exec_tick_of_end hp ha (by omega) hn, tickEnd_of_last d hl, if_pos he]
  | ramp d v hp ha hge hn hl hlt =>
    rw [exec_tick_of_end hp ha hge hn, tickEnd_of_last d hl, if_neg (by omega), if_neg (by omega)]

/-- An Advance that completes, with what it read. -/
theorem tickAdvance_next {s t : State} (h : tickAdvance s = .next t) :
    ∃ (e : Descriptor) (first final : Byte), advanceReads s = .ok (e, first, final) ∧
      t = output first 1 { s with plPos := halfOf (s.plPos.toNat + 1), act := some e, last := some final } := by
  unfold tickAdvance at h
  split at h
  next => cases h
  next e first final hr => cases h; exact ⟨e, first, final, hr, rfl⟩

/-- A table in the ROM holds the next entry (R21, R37). -/
theorem descRead_next {s : State} {p : Half} (hn : s.plPos.toNat + 1 < s.plLen.toNat)
    (ht : p.toNat + 4 * s.plLen.toNat ≤ s.params.romSize) :
    descRead s p.toNat (s.plPos.toNat + 1) = .ok (tableEntry s p.toNat (s.plPos.toNat + 1)) :=
  descRead_of_lt (by omega)

/-- The ramp's output fits a byte (R66): it is what is left of `last`. -/
theorem toNat_rampByte {d : Descriptor} {v : Byte} {o : Nat} (hge : d.len.toNat ≤ o) :
    (byteOf (d.len.toNat + v.toNat - o)).toNat = d.len.toNat + v.toNat - o := by
  rw [BitVec.toNat_ofNat, Nat.mod_eq_of_lt]
  omega

/-! ### The frame of a TICK -/

theorem tickCase_keeps_host {s t : State} (h : TickCase s t) :
    t.cmd = s.cmd ∧ t.arg0 = s.arg0 ∧ t.arg1 = s.arg1 ∧ t.arg2 = s.arg2 ∧ t.result = s.result ∧
      t.tickPeriod = s.tickPeriod ∧ t.draws = s.draws := by
  cases h <;> simp [tickTerminal, tickRamp]

/-- Only Terminal closes the output, ends the session and clears the playlist. -/
theorem tickCase_keeps_session {s t : State} (h : TickCase s t) (hph : phase s ≠ some .rampDone) :
    t.playing = s.playing ∧ t.tickEn = s.tickEn ∧ t.pwmEn = s.pwmEn ∧ t.pinActive = s.pinActive ∧
      t.plBase = s.plBase ∧ t.plLen = s.plLen := by
  cases h with
  | terminal d v hp ha hn hl he => exact absurd (phase_of_terminal hp ha hn hl he) hph
  | idle | stream | advance | ramp => simp [tickRamp]

/-- Only an Advance changes the buffer. -/
theorem tickCase_keeps_buffer {s t : State} (h : TickCase s t) (hph : phase s ≠ some .advance) :
    t.act = s.act ∧ t.last = s.last := by
  cases h with
  | advance d e first final hp ha hge hn hr => exact absurd (phase_of_advance hp ha hge hn) hph
  | idle | stream | terminal | ramp => simp [tickTerminal, tickRamp]

/-- Only an Advance moves the playlist's position, but that Terminal clears it. -/
theorem tickCase_keeps_plPos {s t : State} (h : TickCase s t) (hadv : phase s ≠ some .advance)
    (hdone : phase s ≠ some .rampDone) : t.plPos = s.plPos := by
  cases h with
  | advance d e first final hp ha hge hn hr => exact absurd (phase_of_advance hp ha hge hn) hadv
  | terminal d v hp ha hn hl he => exact absurd (phase_of_terminal hp ha hn hl he) hdone
  | idle | stream | ramp => simp [tickRamp]

/-- Idle and Terminal output no byte. -/
theorem tickCase_keeps_duty {s t : State} (h : TickCase s t) (hph : phase s = some .idle ∨ phase s = some .rampDone) :
    t.duty = s.duty ∧ t.offset = s.offset := by
  cases h with
  | idle | terminal => simp [tickTerminal]
  | stream d v hp ha hlt hr => simp [phase_of_streaming hp ha hlt] at hph
  | advance d e first final hp ha hge hn hr => simp [phase_of_advance hp ha hge hn] at hph
  | ramp d v hp ha hge hn hl hlt => simp [phase_of_ramping hp ha hge hn hl hlt] at hph

end Sys2Proof.Machine

open Sys2Proof Sys2Proof.Machine

/-- Settles O29: the table holds the next entry, and `CheckBuf` on it decides. -/
theorem advanceTickLoadsTheNextEntry : Obligations.AdvanceTickLoadsTheNextEntry := by
  intro s d p hp ha hge hn hb ht
  have hreads := advanceReads_of_descRead hb (descRead_next hn ht)
  rw [exec_tick_of_advance hp ha hge ((hasNext_iff s).2 hn), tickAdvance, hreads]
  cases checkBuf s.params (tableEntry s p.toNat (s.plPos.toNat + 1)).base.toNat
      (tableEntry s p.toNat (s.plPos.toNat + 1)).len.toNat <;> rfl

/-- Settles O30: the Terminal case of a TICK, whose writes are those of `tickTerminal`. -/
theorem terminalTickEndsTheSession : Obligations.TerminalTickEndsTheSession :=
  fun s d v hp ha hl hn he => exec_tick_of_case (.terminal d v hp ha ((hasNext_eq_false_iff s).2 hn) hl he)

/-- Settles O31: `offset` lies between the length and the ramp's end, so the output fits its byte and the count does not
wrap. -/
theorem rampTickOutputsTheRemainder : Obligations.RampTickOutputsTheRemainder := by
  intro s d v hp ha hl hlen hge hn hlt
  have htick := exec_tick_of_case (.ramp d v hp ha hge ((hasNext_eq_false_iff s).2 hn) hl hlt)
  have hbyte := toNat_rampByte (v := v) hge
  have hcount : (halfOf (s.offset.toNat + 1)).toNat = s.offset.toNat + 1 := by
    rw [BitVec.toNat_ofNat, Nat.mod_eq_of_lt]
    omega
  exact ⟨_, byteOf (d.len.toNat + v.toNat - s.offset.toNat), htick, by omega, by omega, by omega, hcount, rfl⟩

/-- Settles O32: past the ramp's end none of the cases before the overrun applies. -/
theorem rampOverrunFaults : Obligations.RampOverrunFaults := by
  intro s d v hp ha hl hn hgt
  rw [exec_tick_of_end hp ha (by omega) ((hasNext_eq_false_iff s).2 hn), tickEnd_of_last d hl, if_neg (by omega),
    if_pos hgt]

/-- Settles O34: what an Advance reads does not include `last`, which it overwrites. -/
theorem advanceWinsOverTheRamp : Obligations.AdvanceWinsOverTheRamp := by
  intro s t d l hp ha hge hn h
  have hnext := (hasNext_iff s).2 hn
  rw [exec_tick_of_advance hp ha hge hnext] at h
  obtain ⟨e, first, final, hr, rfl⟩ := tickAdvance_next h
  have hany : TickCase { s with last := l } _ := .advance d e first final hp ha hge hnext hr
  have hpos : (halfOf (s.plPos.toNat + 1)).toNat = s.plPos.toNat + 1 := toNat_halfOf_succ (b := s.plLen) (by omega)
  exact ⟨exec_tick_of_case hany, hp, rfl, hpos, nofun, nofun⟩

/-- Settles O35: the invariant excludes an unwritten buffer or `last`, a read past the ROM, and a playlist without its
table in the ROM; the overrun and the entry's check are left. -/
theorem tickFaultsAreOverrunOrBadEntry : Obligations.TickFaultsAreOverrunOrBadEntry := by
  intro s f hi h
  cases exec_tick_fault_cases h with
  | noBuffer hp ha => exact absurd ha (hi.playing hp).1
  | lastUnwritten d hp ha hge hn hl => exact absurd hl (hi.playing hp).2
  | overrun d v hp ha hn hl hgt => exact .inl ⟨d, v, rfl, ha, hl, hgt⟩
  | stream d hp ha hlt hr =>
    obtain ⟨-, -, hend⟩ := hi.act d ha
    rw [memRead_of_lt (by omega)] at hr
    cases hr
  | advance d hp ha hge hnext hr =>
    have hn := (hasNext_iff s).1 hnext
    obtain ⟨-, p, hb, ht⟩ := hi.playlist (by omega)
    rw [advanceReads_of_descRead hb (descRead_next hn ht)] at hr
    refine .inr ⟨phase_of_advance hp ha hge hnext, p, hb, ?_⟩
    cases hk : checkBuf s.params (tableEntry s p.toNat (s.plPos.toNat + 1)).base.toNat
        (tableEntry s p.toNat (s.plPos.toNat + 1)).len.toNat with
    | error g => rw [hk] at hr; cases hr; rfl
    | ok u => rw [hk] at hr; cases hr

/-- Settles O48: one lemma for each group of fields, over the five cases of a TICK. -/
theorem tickFrame : Obligations.TickFrame := by
  intro s t h
  have hcase := execTick_cases h
  obtain ⟨hfault, hrefused, hparams, hrom, hprog, hsched, hreads⟩ := exec_keeps h
  obtain ⟨hcmd, h0, h1, h2, hresult, hperiod, hdraws⟩ := tickCase_keeps_host hcase
  exact ⟨hcmd, h0, h1, h2, hresult, hperiod, hfault, hrefused, hparams, hprog, hsched, hreads, hdraws,
    tickCase_keeps_session hcase, tickCase_keeps_buffer hcase, tickCase_keeps_plPos hcase, tickCase_keeps_duty hcase,
    fun _ => by rw [hrom]⟩

/-- Settles O51: each case's premises read no host register and not `cmd`, and its writes leave them. -/
theorem tickIgnoresHostRegisters : Obligations.TickIgnoresHostRegisters := by
  intro s t a0 a1 a2 r c h
  apply exec_tick_of_case
  cases execTick_cases h with
  | idle hp => exact .idle hp
  | stream d v hp ha hlt hr => exact .stream d v hp ha hlt hr
  | advance d e first final hp ha hge hn hr => exact .advance d e first final hp ha hge hn hr
  | terminal d v hp ha hn hl he => exact .terminal d v hp ha hn hl he
  | ramp d v hp ha hge hn hl hlt => exact .ramp d v hp ha hge hn hl hlt

end

section
/-! PROOFS of the family other, the sequencer (41_sequencer.md): START completes S1 and runs to its return (R76, R78), it
preempts a session (R82), START_PL completes P1 (R85), STOP, FINISH and IS_PLAYING (R86 to R88), the later micro-steps complete
under the invariant (R83), and the frames of the commands. -/

namespace Sys2Proof.Machine

/-! ### START and START_PL, their checks passed (R77, R78, R85) -/

/-- With operands that pass every check START's buffer is the one they name. -/
theorem startChecks_of_ok {s : State} {a0 a1 a2 : Word} (h : a0.toNat < Config.addrSpace)
    (hb : checkBuf s.params a0.toNat a1.toNat = .ok ()) (hr : checkRate s.params a2 = .ok ()) :
    ∃ d : Descriptor, startChecks s a0 a1 a2 = .ok d ∧ d.base.toNat = a0.toNat ∧ d.len.toNat = a1.toNat := by
  have hok : startChecks s a0 a1 a2 = .ok { base := halfOf a0.toNat, len := halfOf a1.toNat } := by
    rw [startChecks, if_neg (Nat.not_le.2 h), hb, hr]
    rfl
  obtain ⟨hbase, hlen, -⟩ := startChecks_ok hok
  exact ⟨_, hok, hbase, hlen⟩

theorem exec_start_of_ok {s : State} {d : Descriptor} (hc : s.cmd = none)
    (h : startChecks s s.arg0 s.arg1 s.arg2 = .ok d) :
    exec .start s = .next (latchCmd .start d (loadBuffer d (clearPlaylist s))) := by
  show execStart s = _
  unfold execStart startS1
  rw [hc, h]

/-- START_PL with a table, an entry 0 and a rate that pass: entry 0 is the buffer. -/
theorem plChecks_of_ok {s : State} {a0 a1 a2 : Word} (h1 : 1 ≤ a1.toNat) (hn : a1.toNat ≤ Config.plMax)
    (hb : a0.toNat < Config.addrSpace) (ht : a0.toNat + 4 * a1.toNat ≤ s.params.romSize)
    (hd : (tableEntry s a0.toNat 0).ok s.params) (hr : checkRate s.params a2 = .ok ()) :
    plChecks s a0 a1 a2 = .ok (tableEntry s a0.toNat 0) := by
  rw [plChecks_of_table_ok a2 h1 hn hb ht, checkBuf_of_ok hd, hr]
  rfl

theorem exec_startPl_of_ok {s : State} {d : Descriptor} (hc : s.cmd = none) (hz : s.arg1.toNat ≠ 0)
    (h : plChecks s s.arg0 s.arg1 s.arg2 = .ok d) :
    exec .startPl s = .next (latchCmd .startPl d (loadBuffer d
      { s with plBase := some (halfOf s.arg0.toNat), plLen := halfOf s.arg1.toNat, plPos := 0 })) := by
  rw [exec_startPl_of_idle hc, if_neg hz, startPlP1_of_ok h]

/-! ### The host's turns of a command in progress (R74) -/

theorem CmdOp.instr_eq (op : CmdOp) : op.instr = .start ∨ op.instr = .startPl := by
  cases op
  · exact .inl rfl
  · exact .inr rfl

/-- The host's turn with a command in progress is its micro-step. -/
theorem step_turnNext_host_of_cmd {s : State} {c : Cmd} (hl : s.live) (hc : s.cmd = some c) :
    step (s.turnNext .host) = commit s (exec c.op.instr s) := by
  rw [step_turnNext_host hl, hostTurn, hc]

/-- A micro-step that completes is the host's next step. -/
theorem step_micro {s t : State} {c : Cmd} (hl : s.live) (hc : s.cmd = some c) (h : startTail c s = .next t) :
    step (s.turnNext .host) = .next t := by
  rw [step_turnNext_host_of_cmd hl hc, exec_of_cmd c.op.instr_eq hc, h, commit_next]

/-- S2, S3 and S4 with no tick between them: from micro-step 0 to the return. -/
theorem runTurns_host_tail {s : State} {c : Cmd} (hl : s.live) (hc : s.cmd = some c) (hk : c.k = .s2)
    (hr : c.a2.toNat ≠ 0) (h1 : 1 ≤ c.buf.base.toNat + c.buf.len.toNat)
    (hend : c.buf.base.toNat + c.buf.len.toNat ≤ s.params.romSize) :
    runTurns .host 3 s = .next { openOutput (tickPeriodOf s.params c.a2) s with
      last := some (memByte s.rom (c.buf.base.toNat + c.buf.len.toNat - 1)), playing := true, cmd := none } := by
  have hs2 := step_micro (s := s.nextTurns .host 2) hl hc (startTail_of_s2 hk hr)
  have hs3 := step_micro (s := { (openOutput (tickPeriodOf s.params c.a2) s).nextTurns .host 1 with
    cmd := some { c with k := .s3 } }) hl rfl (startTail_of_s3 rfl (memRead_finalAddr h1 hend))
  have hs4 := step_micro (s := { openOutput (tickPeriodOf s.params c.a2) s with
    last := some (memByte s.rom (c.buf.base.toNat + c.buf.len.toNat - 1)), cmd := some { c with k := .s4 } }) hl rfl
    (startTail_of_s4 rfl)
  exact (run_succ 2 hs2).trans ((run_succ 1 hs3).trans (run_succ 0 hs4))

/-- One CMD write taken off a run of the host's turns. -/
theorem runTurns_host_cmdWrite {s t : State} {v : Word} {i : Instr} (k : Nat) (hl : s.live) (hc : s.cmd = none)
    (hd : decodeCmd v = .ok i) (h : exec i (s.nextTurns .host k) = .next (t.nextTurns .host k)) :
    runTurns .host (k + 1) { s with prog := .write 0x00 32 v :: s.prog } = runTurns .host k t := by
  have hstep : step ((s.nextTurns .host k).accessNext (.write 0x00 32 v)) = .next (t.nextTurns .host k) := by
    rw [step_cmdWrite (t := s.nextTurns .host k) v hl hc, writeCmd_of_ok _ hd, h, commit_next]
  exact run_succ k hstep

/-! ### STOP, FINISH, IS_PLAYING (R86 to R88) -/

/-- Without a playlist no entry is next. -/
theorem phase_ne_advance_of_plLen {s : State} (h : s.plLen = 0) : phase s ≠ some .advance := by
  have hn : hasNext s = false := by simp [hasNext, h]
  intro hph
  obtain ⟨d, hp, ha, hge, hnext⟩ := advance_of_phase hph
  simp [hn] at hnext

theorem playingWord_eq (s : State) : playingWord s = if s.playing = true then 1 else 0 := by
  unfold playingWord bitAt
  split <;> rfl

/-! ### The frames of the commands -/

/-- What no micro-step of START or START_PL writes. -/
theorem startCase_keeps {s t : State} {i : Instr} (h : StartCase s i t) :
    t.duty = s.duty ∧ t.arg0 = s.arg0 ∧ t.arg1 = s.arg1 ∧ t.arg2 = s.arg2 ∧ t.result = s.result ∧ t.draws = s.draws := by
  cases h <;> simp

/-- The first micro-step leaves `last`, `playing`, the output controls and the log. -/
theorem startCase_first_keeps {s t : State} {i : Instr} (h : StartCase s i t) (hc : s.cmd = none) :
    t.last = s.last ∧ t.playing = s.playing ∧ t.tickEn = s.tickEn ∧ t.tickPeriod = s.tickPeriod ∧
      t.pwmEn = s.pwmEn ∧ t.pinActive = s.pinActive ∧ t.log = s.log := by
  cases h with
  | s1 | p0 | p1 => simp
  | s2 c hc' | s3 c v hc' | s4 c hc' => simp [hc] at hc'

/-- The later micro-steps leave the buffer and the playlist. -/
theorem startCase_later_keeps {s t : State} {i : Instr} (h : StartCase s i t) (hc : s.cmd ≠ none) :
    t.act = s.act ∧ t.offset = s.offset ∧ t.plBase = s.plBase ∧ t.plLen = s.plLen ∧ t.plPos = s.plPos := by
  cases h with
  | s1 d hc' | p0 hc' | p1 d hc' => exact absurd hc' hc
  | s2 | s3 | s4 => simp

end Sys2Proof.Machine

open Sys2Proof Sys2Proof.Machine

/-- Settles O14: the operands pass START's three checks, and fit the fields of a descriptor. -/
theorem startLoadsTheBuffer : Obligations.StartLoadsTheBuffer := by
  intro s hc h0 h1 hlen hend hr hp hmax
  obtain ⟨d, hchecks, hbase, hlength⟩ :=
    startChecks_of_ok (s := s) h0 (checkBuf_ok_iff.2 ⟨h1, hlen, hend⟩) (checkRate_of_ok hr ⟨hp, hmax⟩)
  exact ⟨d, hbase, hlength, exec_start_of_ok hc hchecks⟩

/-- Settles O21: the operands pass START_PL's checks, and fit the fields of the playlist. -/
theorem startPlCompletes : Obligations.StartPlCompletes := by
  intro s hc h1 hn h0 ht hd hr hp
  have hchecks := plChecks_of_ok (s := s) h1 hn h0 ht hd (checkRate_of_ok hr hp)
  have hcount : (halfOf s.arg1.toNat).toNat = s.arg1.toNat := Nat.mod_eq_of_lt (by omega)
  have hbase : (halfOf s.arg0.toNat).toNat = s.arg0.toNat := Nat.mod_eq_of_lt h0
  exact ⟨_, exec_startPl_of_ok hc (by omega) hchecks, rfl, rfl, rfl, hcount, ⟨_, rfl, hbase⟩, rfl, rfl, rfl, rfl, rfl⟩

/-- Settles O22: the CMD write performs S1, and the three later micro-steps follow from what it latches. -/
theorem startRunsToItsReturn : Obligations.StartRunsToItsReturn := by
  intro s hl hc h0 h1 hlen hend hr hp
  obtain ⟨d, hchecks, hbase, hlength⟩ :=
    startChecks_of_ok (s := s) h0 (checkBuf_ok_iff.2 ⟨h1, hlen, hend⟩) (checkRate_of_ok hr hp)
  have hword : decodeCmd 1 = .ok .start := decodeCmd_eq_ok_iff_encodeCmd.2 rfl
  have hwrite := runTurns_host_cmdWrite (t := latchCmd .start d (loadBuffer d (clearPlaylist s))) 3 hl hc hword
    (exec_start_of_ok (s := s.nextTurns .host 3) hc hchecks)
  have htail := runTurns_host_tail (s := latchCmd .start d (loadBuffer d (clearPlaylist s))) hl rfl rfl hr
    (by simp only; omega) (by simp only [latchCmd_params, loadBuffer_params, clearPlaylist_params]; omega)
  refine ⟨d, hbase, hlength, hwrite.trans (htail.trans ?_)⟩
  simp only [hbase, hlength]
  rfl

/-- Settles O23: S1 puts `offset` at the start of the new buffer, and leaves `playing`, so the next tick is Streaming. -/
theorem startPreemptsAPlayingSession : Obligations.StartPreemptsAPlayingSession := by
  intro s t hc hp h
  cases execStart_cases h with
  | s1 d _ hk =>
    obtain ⟨hbase, -, ⟨h1, -, hend⟩, -, -⟩ := startChecks_ok hk
    have htick := exec_tick_of_streaming (s := latchCmd .start d (loadBuffer d (clearPlaylist s))) hp rfl h1
      (by simp; omega)
    simp only [latchCmd_offset, loadBuffer_offset, hbase] at htick
    exact ⟨hp, _, htick, rfl, rfl, rfl, hp, rfl⟩
  | s2 c hc' | s3 c v hc' | s4 c hc' => simp [hc] at hc'

/-- Settles O24: `stopOffset` in its two cases. -/
theorem stopMovesOffsetToTheEnd : Obligations.StopMovesOffsetToTheEnd := by
  refine fun s => ⟨fun d ha => ?_, fun ha => ⟨(stopOffset (clearPlaylist s)).offset, (stopOffset (clearPlaylist s)).draws, ?_⟩⟩
  · show Host.Outcome.next (stopOffset (clearPlaylist s)) = _
    rw [stopOffset_some (clearPlaylist s) d ha]
    rfl
  · show Host.Outcome.next (stopOffset (clearPlaylist s)) = _
    rw [stopOffset_eq]
    rfl

/-- Settles O25: FINISH is `clearPlaylist`, after which no entry is next. -/
theorem finishClearsOnlyThePlaylist : Obligations.FinishClearsOnlyThePlaylist := by
  refine fun s => ⟨rfl, fun hb hl hp => ?_, fun t h => ?_⟩
  · cases s
    cases hb
    cases hl
    cases hp
    rfl
  · cases h
    exact ⟨rfl, phase_ne_advance_of_plLen rfl⟩

/-- Settles O26: `playing` as a word, and bit 0 of `STATUS`, which does not read `RESULT`. -/
theorem isPlayingReportsPlaying : Obligations.IsPlayingReportsPlaying := by
  refine fun s => ⟨?_, fun t h => ?_⟩
  · rw [← playingWord_eq]
    rfl
  · cases h
    refine ⟨?_, statusWord_getLsbD s 0, rfl⟩
    show (playingWord s).getLsbD 0 = s.playing
    rw [playingWord_eq]
    cases s.playing <;> rfl

/-- Settles O47: the invariant keeps the latched rate from 0, the latched buffer in the ROM. -/
theorem commandsInProgressComplete : Obligations.CommandsInProgressComplete := by
  intro s c hi hc
  have hcmd := hi.cmd c hc
  rw [exec_of_cmd c.op.instr_eq hc]
  cases hk : c.k with
  | s2 => exact ⟨_, startTail_of_s2 hk hcmd.rate, .inr ⟨_, rfl, rfl, rfl⟩⟩
  | s3 =>
    obtain ⟨h1, -, hend⟩ := hcmd.buf
    exact ⟨_, startTail_of_s3 hk (memRead_finalAddr (by omega) hend), .inr ⟨_, rfl, rfl, rfl⟩⟩
  | s4 => exact ⟨_, startTail_of_s4 hk, .inl ⟨rfl, rfl⟩⟩

/-- Settles O49: one lemma for each group of fields, over the micro-steps of START and START_PL. -/
theorem startFrame : Obligations.StartFrame := by
  intro s t i hi h
  have hcase : StartCase s i t := by
    rcases hi with rfl | rfl
    · exact execStart_cases h
    · exact execStartPl_cases h
  obtain ⟨hfault, hrefused, hparams, hrom, hprog, hsched, hreads⟩ := exec_keeps h
  obtain ⟨hduty, h0, h1, h2, hresult, hdraws⟩ := startCase_keeps hcase
  exact ⟨hduty, h0, h1, h2, hresult, hfault, hrefused, hparams, hprog, hsched, hreads, hdraws,
    startCase_first_keeps hcase, startCase_later_keeps hcase, fun _ => by rw [hrom]⟩

/-- Settles O50: the three commands are equations, STOP's with `stopOffset` writing `offset` and the draws only. -/
theorem stopFinishIsPlayingFrame : Obligations.StopFinishIsPlayingFrame := by
  intro s t i hi h
  rcases hi with rfl | rfl | rfl
  · cases h
    rw [stopOffset_eq]
    simp
  · cases h
    simp
  · cases h
    simp

end

section
/-! PROOFS of the family other, steps and agents: a step runs the decoded instruction (30_encoding.md section 3), when a TICK is
delivered (60_exceptions.md R95), final states (00_scope.md R12), and what a step may do to the ROM, the log, `playing`,
`tick_en`, `act` and `last` (10_state.md). For each of these one lemma says it of an instruction; a step that runs none writes
fields it is not about. -/

namespace Sys2Proof.Machine

/-! ### The agents' turns -/

theorem tickTurn_of_enabled {s : State} (h : s.tickEn = true) : tickTurn s = commit s (exec .tick s) :=
  if_pos h

theorem tickTurn_of_disabled {s : State} (h : s.tickEn = false) : tickTurn s = .next s :=
  if_neg (by simp [h])

/-- A host with no command in progress and no access left lets its turn pass. -/
theorem hostTurn_of_idle {s : State} (hc : s.cmd = none) (hp : s.prog = []) : hostTurn s = .next s := by
  simp [hostTurn, hc, hp]

theorem hostReady_eq_false_iff (s : State) : hostReady s = false ↔ s.cmd = none ∧ s.prog = [] := by
  simp [hostReady]

/-- With the interleaving used up and no host step left the tick has the turn (log entry 4). -/
theorem takeTurn_of_idle {s : State} (hq : s.sched = []) (hc : s.cmd = none) (hp : s.prog = []) :
    takeTurn s = tickTurn s := by
  simp [takeTurn, hq, (hostReady_eq_false_iff s).2 ⟨hc, hp⟩]

/-- What R12 asks of a final state. -/
theorem final_iff (s : State) :
    s.final = true ↔ (s.cmd = none ∧ s.prog = []) ∧ s.tickEn = false ∧ s.live := by
  simp [State.final, ← hostReady_eq_false_iff, and_assoc]

/-! ### Instructions placed for the next step (log entries 12, 13) -/

theorem decodeTableWord_cmd {w : Nat} {i : Instr} (h : decodeTableWord 32 w = some i) :
    decodeCmd (BitVec.ofNat 32 w) = .ok i := by
  obtain ⟨-, hd⟩ := Option.ite_none_right_eq_some.1 (show (if w < 2 ^ 32 then _ else none) = some i from h)
  cases hw : decodeCmd (BitVec.ofNat 32 w) with
  | ok j => rw [hw] at hd; cases hd; rfl
  | error r => rw [hw] at hd; cases hd

theorem decodeTableWord_evt {w : Nat} {i : Instr} (h : decodeTableWord 8 w = some i) :
    BitVec.ofNat 1 w = 1 ∧ i = .tick := by
  obtain ⟨hw, hi⟩ := Option.ite_none_right_eq_some.1 (show (if BitVec.ofNat 1 w = 1 then _ else none) = some i from h)
  exact ⟨hw, (Option.some.inj hi).symm⟩

/-! ### What an instruction does to the log and to the fields a step may only set -/

/-- An instruction emits at most one event. -/
theorem exec_log {i : Instr} {s t : State} (h : exec i s = .next t) :
    ∃ es : List Event, t.log = s.log ++ es ∧ es.length ≤ 1 := by
  have none (h : t.log = s.log) : ∃ es : List Event, t.log = s.log ++ es ∧ es.length ≤ 1 := ⟨[], by simp [h]⟩
  have one (e : Event) (h : t.log = s.log ++ [e]) : ∃ es : List Event, t.log = s.log ++ es ∧ es.length ≤ 1 :=
    ⟨[e], h, le_rfl⟩
  cases exec_cases h with
  | start hi h =>
    cases h with
    | s2 => exact one _ rfl
    | s1 | p0 | p1 | s3 | s4 => exact none rfl
  | stop => exact none (by rw [stopOffset_eq]; rfl)
  | finish | isPlaying => exact none rfl
  | tick h =>
    cases h with
    | idle => exact none rfl
    | stream | advance | terminal | ramp => exact one _ rfl

/-- Only Terminal clears `playing` or `tick_en`. -/
theorem exec_terminal_or_keeps {i : Instr} {s t : State} (h : exec i s = .next t) :
    (phase s = some .rampDone ∧ t = tickTerminal s) ∨
    ((s.playing = true → t.playing = true) ∧ (s.tickEn = true → t.tickEn = true)) := by
  cases exec_cases h with
  | start hi h => exact .inr (by cases h <;> simp)
  | stop => exact .inr (by rw [stopOffset_eq]; simp)
  | finish | isPlaying => exact .inr (by simp)
  | tick h =>
    cases h with
    | terminal d v hp ha hn hl he => exact .inl ⟨phase_of_terminal hp ha hn hl he, rfl⟩
    | idle | stream | advance | ramp => exact .inr (by simp [tickRamp])

/-- Only S2 sets `tick_en`, and it opens the output with it. -/
theorem s2_of_exec_enables_tick {i : Instr} {s t : State} (h : exec i s = .next t) (hs : s.tickEn = false)
    (ht : t.tickEn = true) : ∃ c : Cmd, s.cmd = some c ∧ c.k = .s2 ∧ t.pwmEn = true ∧ t.pinActive = true := by
  have hne : t.tickEn ≠ s.tickEn := by simp [hs, ht]
  cases exec_cases h with
  | start hi h =>
    cases h with
    | s2 c hc hk hr => exact ⟨c, hc, hk, rfl, rfl⟩
    | s1 | p0 | p1 | s3 | s4 => exact absurd rfl hne
  | stop => exact absurd (by rw [stopOffset_eq]; rfl) hne
  | finish | isPlaying => exact absurd rfl hne
  | tick h =>
    cases h with
    | terminal => simp [tickTerminal] at ht
    | idle | stream | advance | ramp => exact absurd rfl hne

/-- `act` and `last` are written with values only. -/
theorem exec_keeps_written {i : Instr} {s t : State} (h : exec i s = .next t) :
    (s.act ≠ none → t.act ≠ none) ∧ (s.last ≠ none → t.last ≠ none) := by
  cases exec_cases h with
  | start hi h => cases h <;> simp
  | stop => rw [stopOffset_eq]; simp
  | finish | isPlaying => simp
  | tick h => cases h <;> simp [tickTerminal, tickRamp]

/-- A CMD word but those of START and START_PL. -/
theorem short_of_decodeCmd {v : Word} {i : Instr} (h : decodeCmd v = .ok i) (h1 : v ≠ 1) (h2 : v ≠ 2) :
    i = .stop ∨ i = .finish ∨ i = .isPlaying := by
  obtain ⟨hv, -⟩ | ⟨hv, -⟩ | ⟨-, hi⟩ | ⟨-, hi⟩ | ⟨-, hi⟩ :=
    encodeCmd_eq_some_iff.1 (decodeCmd_eq_ok_iff_encodeCmd.1 h)
  · exact absurd hv h1
  · exact absurd hv h2
  · exact .inl hi
  · exact .inr (.inl hi)
  · exact .inr (.inr hi)

end Sys2Proof.Machine

open Sys2Proof Sys2Proof.Machine

/-- Settles O1: each word is the encoder's. -/
theorem tabledWordsDecode : Obligations.TabledWordsDecode := by
  simp only [Obligations.TabledWordsDecode, decodeCmd_eq_ok_iff_encodeCmd, decodeEvt]
  exact ⟨rfl, rfl, rfl, rfl, rfl, rfl, rfl⟩

/-- Settles O4: the turn's action is the instruction; a placed word is the CMD write, or the tick, of the next turn. -/
theorem stepRunsTheDecodedInstruction : Obligations.StepRunsTheDecodedInstruction := by
  have write (t : State) (v : Word) (i : Instr) (hl : t.live) (hc : t.cmd = none) (hd : decodeCmd v = .ok i) :
      step (t.accessNext (.write 0x00 32 v)) = commit t (exec i t) := by
    rw [step_cmdWrite v hl hc, writeCmd_of_ok t hd]
  have tick (t : State) (hl : t.live) (he : t.tickEn = true) : step (t.turnNext .tick) = commit t (exec .tick t) := by
    rw [step_turnNext_tick hl, tickTurn_of_enabled he]
  refine ⟨write, fun t c => step_turnNext_host_of_cmd, tick, fun s w i hd => ?_, fun s w i hd => ?_⟩
  · exact write { s with fault := none, refused := none, cmd := none } _ i ⟨rfl, rfl⟩ rfl (decodeTableWord_cmd hd)
  · obtain ⟨hw, rfl⟩ := decodeTableWord_evt hd
    have hplace : s.withFetchWord 8 w =
        State.turnNext { s with fault := none, refused := none, tickEn := true } .tick := if_pos hw
    rw [hplace]
    exact tick _ ⟨rfl, rfl⟩ rfl

/-- Settles O5: the tick's turn in a live state, and no step in any other. -/
theorem tickIsDeliveredExactlyWhileEnabled : Obligations.TickIsDeliveredExactlyWhileEnabled :=
  ⟨fun _ hl => step_turnNext_tick hl, fun t u hl => step_ne_next_of_not_live (s := t.turnNext .tick) hl u⟩

/-- Settles O6: with no turn named and no host step left the turn is the tick's. -/
theorem idleHostLetsTheTickRun : Obligations.IdleHostLetsTheTickRun := by
  intro s hl hq hc hp he
  rw [step_of_live hl, takeTurn_of_idle hq hc hp, tickTurn_of_enabled he]

/-- Settles O7: whichever agent has the turn, it has no step. -/
theorem finalStatesDoNotMove : Obligations.FinalStatesDoNotMove := by
  intro s h
  obtain ⟨⟨hc, hp⟩, he, hl⟩ := (final_iff s).1 h
  rw [step_of_live hl]
  cases hq : s.sched with
  | nil =>
    rw [takeTurn_of_idle hq hc hp, tickTurn_of_disabled he, List.tail_nil, ← hq]
  | cons a rest =>
    rw [takeTurn, hq]
    cases a with
    | host => exact hostTurn_of_idle hc hp
    | tick => exact tickTurn_of_disabled he

/-- Settles O13: no instruction writes the ROM or a parameter, and neither does any other step. -/
theorem noStepChangesTheRom : Obligations.NoStepChangesTheRom := by
  intro s t h
  obtain ⟨-, p, q, hcase⟩ := step_cases h
  have hkeeps : t.rom = s.rom ∧ t.params = s.params := by
    cases hcase with
    | instr i ho he =>
      obtain ⟨-, -, hparams, hrom, -⟩ := exec_keeps he
      exact ⟨hrom, hparams⟩
    | fault | refuse | arg0 | arg1 | arg2 | read | pass => exact ⟨rfl, rfl⟩
  exact ⟨hkeeps.1, hkeeps.2, fun _ => by rw [hkeeps.1]⟩

/-- Settles O39: at launch the tick is disabled, nothing plays, and the output is closed. -/
theorem onlyTheHostStepsAfterReset : Obligations.OnlyTheHostStepsAfterReset := by
  intro p rom prog sched
  refine ⟨?_, phase_of_idle rfl, level_of_closed nofun, rfl⟩
  rw [step_turnNext_tick ⟨rfl, rfl⟩, tickTurn_of_disabled rfl]

/-- Settles O43: an instruction emits at most one event, any other step none; only a live state has a step. -/
theorem logGrowsAndStopsStick : Obligations.LogGrowsAndStopsStick := by
  refine ⟨fun s t h => ?_, fun s t hstop => ?_⟩
  · obtain ⟨-, p, q, hcase⟩ := step_cases h
    cases hcase with
    | instr i ho he => exact exec_log (s := s.withInput p q) he
    | fault | refuse | arg0 | arg1 | arg2 | read | pass => exact ⟨[], by simp⟩
  · exact step_ne_next_of_not_live (fun hl => hstop.elim (· hl.1) (· hl.2)) t

/-- Settles O44: among the instructions only Terminal clears `playing`, and its writes are R65's. -/
theorem onlyTheTerminalTickClearsPlaying : Obligations.OnlyTheTerminalTickClearsPlaying := by
  intro s t h hs ht
  obtain ⟨-, p, q, hcase⟩ := step_cases h
  cases hcase with
  | instr i ho he =>
    obtain ⟨hph, rfl⟩ | ⟨hkeeps, -⟩ := exec_terminal_or_keeps he
    · exact ⟨hph, rfl, rfl, rfl, rfl, rfl, rfl⟩
    · simp [hkeeps hs] at ht
  | fault | refuse | arg0 | arg1 | arg2 | read | pass => simp [hs] at ht

/-- Settles O45: among the instructions only S2 sets `tick_en`, and only Terminal clears it. -/
theorem tickEnableHasTwoWriters : Obligations.TickEnableHasTwoWriters := by
  intro s t h
  obtain ⟨-, p, q, hcase⟩ := step_cases h
  cases hcase with
  | instr i ho he =>
    refine ⟨s2_of_exec_enables_tick (s := s.withInput p q) he, fun hs ht => ?_⟩
    obtain ⟨hph, rfl⟩ | ⟨-, hkeeps⟩ := exec_terminal_or_keeps he
    · exact ⟨hph, rfl⟩
    · simp [hkeeps hs] at ht
  | fault | refuse | arg0 | arg1 | arg2 | read | pass => simp +contextual

/-- Settles O46: an instruction writes `act` and `last` with values only, and no other step writes them. -/
theorem bufferIsNeverForgotten : Obligations.BufferIsNeverForgotten := by
  intro s t h
  obtain ⟨-, p, q, hcase⟩ := step_cases h
  cases hcase with
  | instr i ho he => exact exec_keeps_written (s := s.withInput p q) he
  | fault | refuse | arg0 | arg1 | arg2 | read | pass => exact ⟨id, id⟩

/-- Settles O55: with the tick disabled and no command in progress only a CMD write runs an instruction, and STOP, FINISH and
IS_PLAYING leave the hang. -/
theorem hangPersists : Obligations.HangPersists := by
  rintro s t ⟨hp, he, hc⟩ h hword
  obtain ⟨-, p, q, hcase⟩ := step_cases h
  cases hcase with
  | instr i ho hexec =>
    cases ho with
    | tick _ he' => simp [he] at he'
    | micro c hc' _ => simp [hc] at hc'
    | write v _ hprog hd =>
      obtain ⟨h1, h2⟩ := hword v _ hprog
      obtain ⟨hplaying, -, -, htick, -, -, -, -, -, -, -, hcmd, -, -, hlog, -⟩ :=
        stopFinishIsPlayingFrame _ _ i (short_of_decodeCmd hd h1 h2) hexec
      exact ⟨⟨hplaying.trans hp, htick.trans he, hcmd.trans hc⟩, hlog⟩
  | fault | refuse | arg0 | arg1 | arg2 | read | pass => exact ⟨⟨hp, he, hc⟩, rfl⟩

/-- Settles O56: Terminal leaves the command in progress, whose S4 then sets `playing`. -/
theorem terminalBeforeTheFourthStepHangs : Obligations.TerminalBeforeTheFourthStepHangs := by
  intro s c hl he hph hc hk
  have htick : step (s.turnNext .tick) = .next (tickTerminal s) := by
    rw [step_turnNext_tick hl, tickTurn_of_enabled he, exec_tick_of_case (terminal_of_phase hph), commit_next]
  have hs4 := step_micro (s := tickTerminal s) hl hc (startTail_of_s4 hk)
  exact ⟨_, _, htick, hs4, ⟨rfl, rfl, rfl⟩, rfl⟩

end

section
/-! PROOFS of the family other, sessions (40_tick.md R73). Every tick of a session emits one event, so a run of ticks is
described by the events it emits, and its length is their number: `TickRun s es t`. A session is the runs of its parts, joined. -/

namespace Sys2Proof.Machine

/-! ### Runs of ticks -/

/-- From `s` as many enabled ticks as there are events in `es` lead to `t`, each emitting the next of them. -/
inductive TickRun : State → List Event → State → Prop where
  | nil (s : State) : TickRun s [] s
  | cons {s t u : State} {e : Event} {es : List Event} (he : s.tickEn = true) (h : exec .tick s = .next t)
      (hlog : t.log = s.log ++ [e]) (hrest : TickRun t es u) : TickRun s (e :: es) u

theorem TickRun.append {s t u : State} {es fs : List Event} (h : TickRun s es t) (h' : TickRun t fs u) :
    TickRun s (es ++ fs) u := by
  induction h with
  | nil => exact h'
  | cons he h hlog _ ih => exact .cons he h hlog (ih h')

theorem TickRun.log_eq {s t : State} {es : List Event} (h : TickRun s es t) : t.log = s.log ++ es := by
  induction h with
  | nil => simp
  | cons he h hlog _ ih => rw [ih, hlog, List.append_assoc, List.singleton_append]

/-- What no tick of a run writes. -/
theorem TickRun.keeps {s t : State} {es : List Event} (h : TickRun s es t) :
    t.params = s.params ∧ t.rom = s.rom ∧ t.sched = s.sched := by
  induction h with
  | nil => exact ⟨rfl, rfl, rfl⟩
  | cons he h hlog _ ih =>
    obtain ⟨-, -, hparams, hrom, -, hsched, -⟩ := exec_keeps h
    obtain ⟨ihparams, ihrom, ihsched⟩ := ih
    exact ⟨ihparams.trans hparams, ihrom.trans hrom, ihsched.trans hsched⟩

/-- A run of ticks, from a live state, is the run of that many turns of the tick. -/
theorem TickRun.runTurns_eq {s t : State} {es : List Event} (h : TickRun s es t) (hl : s.live) :
    runTurns .tick es.length s = .next t := by
  induction h with
  | nil => rfl
  | cons he h hlog _ ih =>
    obtain ⟨hfault, hrefused, -⟩ := exec_keeps h
    exact (runTurns_tick_succ _ hl he h).trans (ih ⟨hfault.trans hl.1, hrefused.trans hl.2⟩)

/-! ### The parts of a session -/

/-- `Duty(ROM[a]) .. Duty(ROM[a+n-1])`. -/
def byteEvents (m : List Host.Cell) (a n : Nat) : List Event := (List.range n).map fun i => .duty (memByte m (a + i))

theorem byteEvents_succ (m : List Host.Cell) (a n : Nat) :
    byteEvents m a (n + 1) = .duty (memByte m a) :: byteEvents m (a + 1) n := by
  simp [byteEvents, List.range_succ_eq_map, Nat.add_right_comm, Nat.add_assoc]

theorem streamEvents_eq (s : State) (d : Descriptor) :
    streamEvents s d = byteEvents s.rom d.base.toNat d.len.toNat := rfl

@[simp] theorem length_streamEvents (s : State) (d : Descriptor) : (streamEvents s d).length = d.len.toNat := by
  simp [streamEvents]

/-- `Duty(n) .. Duty(1)`. -/
def downEvents (n : Nat) : List Event := (List.range n).map fun i => .duty (byteOf (n - i))

theorem downEvents_succ (n : Nat) : downEvents (n + 1) = .duty (byteOf (n + 1)) :: downEvents n := by
  simp [downEvents, List.range_succ_eq_map]

theorem rampEvents_eq (v : Byte) : rampEvents v = downEvents v.toNat := rfl

@[simp] theorem length_rampEvents (v : Byte) : (rampEvents v).length = v.toNat := by
  simp [rampEvents]

theorem length_entriesEvents (s : State) (p i k : Nat) : (entriesEvents s p i k).length = entriesTicks s p i k := by
  induction k generalizing i with
  | zero => rfl
  | succ k ih => rw [entriesEvents, entriesTicks, List.length_append, length_streamEvents, ih]

/-- `s` after ticks that output bytes and loaded nothing. -/
def State.afterOutput (s : State) (duty : Byte) (log : List Event) (offset : Half) : State :=
  { s with duty := duty, log := log, offset := offset }

/-- Streaming from `offset` to the buffer's end (R63). -/
theorem tickRun_stream {s : State} {d : Descriptor} {m : Nat} (he : s.tickEn = true) (hp : s.playing = true)
    (ha : s.act = some d) (hend : d.base.toNat + d.len.toNat ≤ s.params.romSize)
    (hm : s.offset.toNat + m = d.len.toNat) :
    ∃ duty log, TickRun s (byteEvents s.rom (d.base.toNat + s.offset.toNat) m) (s.afterOutput duty log d.len) := by
  induction m generalizing s with
  | zero =>
    have ho : s.offset = d.len := BitVec.eq_of_toNat_eq hm
    refine ⟨s.duty, s.log, ?_⟩
    rw [← ho]
    exact .nil s
  | succ m ih =>
    have htick := exec_tick_of_streaming hp ha (by omega) (by omega)
    have hcount : (halfOf (s.offset.toNat + 1)).toNat = s.offset.toNat + 1 :=
      toNat_halfOf_succ (b := d.len) (by omega)
    obtain ⟨duty, log, hrun⟩ := ih (s := output (memByte s.rom (d.base.toNat + s.offset.toNat)) (s.offset.toNat + 1) s)
      he hp ha hend (by rw [output_offset, hcount]; omega)
    rw [output_offset, hcount, output_rom, ← Nat.add_assoc] at hrun
    rw [byteEvents_succ]
    exact ⟨duty, log, .cons he htick rfl hrun⟩

/-- Streaming a whole buffer. -/
theorem tickRun_buffer {s : State} {d : Descriptor} (he : s.tickEn = true) (hp : s.playing = true)
    (ha : s.act = some d) (hend : d.base.toNat + d.len.toNat ≤ s.params.romSize) (ho : s.offset = 0) :
    ∃ duty log, TickRun s (streamEvents s d) (s.afterOutput duty log d.len) := by
  have hrun := tickRun_stream he hp ha hend (m := d.len.toNat) (by simp [ho])
  rwa [ho] at hrun

/-- Ramping with `m` still to go (R66). -/
theorem tickRun_ramp {s : State} {d : Descriptor} {v : Byte} {m : Nat} (he : s.tickEn = true) (hp : s.playing = true)
    (ha : s.act = some d) (hl : s.last = some v) (hn : hasNext s = false) (hlen : d.len.toNat ≤ 32767)
    (hge : d.len.toNat ≤ s.offset.toNat) (hm : s.offset.toNat + m = d.len.toNat + v.toNat) :
    ∃ duty log, TickRun s (downEvents m) (s.afterOutput duty log (halfOf (d.len.toNat + v.toNat))) := by
  induction m generalizing s with
  | zero =>
    refine ⟨s.duty, s.log, ?_⟩
    have ho : halfOf (d.len.toNat + v.toNat) = s.offset := by simp [← hm]
    rw [ho]
    exact .nil s
  | succ m ih =>
    have htick := exec_tick_of_case (.ramp d v hp ha hge hn hl (by omega))
    have hcount : (halfOf (s.offset.toNat + 1)).toNat = s.offset.toNat + 1 := Nat.mod_eq_of_lt (by omega)
    have hbyte : d.len.toNat + v.toNat - s.offset.toNat = m + 1 := by omega
    obtain ⟨duty, log, hrun⟩ := ih (s := tickRamp d v s) he hp ha hl hn
      (by rw [tickRamp, output_offset, hcount]; omega) (by rw [tickRamp, output_offset, hcount]; omega)
    rw [downEvents_succ]
    exact ⟨duty, log, .cons he htick (by rw [tickRamp, output_log, hbyte]) hrun⟩

/-- From the end of a buffer with no next entry: the ramp, and the terminal tick (R65). -/
theorem tickRun_silence {s : State} {d : Descriptor} {v : Byte} (he : s.tickEn = true) (hp : s.playing = true)
    (ha : s.act = some d) (hl : s.last = some v) (hn : hasNext s = false) (hlen : d.len.toNat ≤ 32767)
    (ho : s.offset = d.len) :
    ∃ t, TickRun s (rampEvents v ++ [.stop]) t ∧ t.playing = false ∧ t.tickEn = false ∧ t.pwmEn = false ∧
      level t = 0 ∧ t.plLen = 0 ∧ t.offset.toNat = d.len.toNat + v.toNat ∧ t.act = some d ∧ t.last = some v := by
  obtain ⟨duty, log, hramp⟩ := tickRun_ramp he hp ha hl hn hlen (by rw [ho]) (m := v.toNat) (by rw [ho])
  rw [← rampEvents_eq] at hramp
  have hend : (halfOf (d.len.toNat + v.toNat)).toNat = d.len.toNat + v.toNat := Nat.mod_eq_of_lt (by omega)
  have hterminal : TickCase (s.afterOutput duty log (halfOf (d.len.toNat + v.toNat))) _ :=
    .terminal d v hp ha hn hl hend
  have hrun := hramp.append (.cons he (exec_tick_of_case hterminal) rfl (.nil _))
  exact ⟨_, hrun, rfl, rfl, rfl, level_tickTerminal _, rfl, hend, ha, hl⟩

/-! ### Playlists (R64) -/

/-- The session plays entry `i` of the playlist of `n + 1` entries at `p`, which lies in the ROM with all its buffers; of the
last entry the final byte is cached. -/
structure AtEntry (s : State) (p : Half) (n i : Nat) : Prop where
  tickEn : s.tickEn = true
  playing : s.playing = true
  base : s.plBase = some p
  count : s.plLen.toNat = n + 1
  pos : s.plPos.toNat = i
  table : p.toNat + 4 * (n + 1) ≤ s.params.romSize
  valid : ∀ j ≤ n, (tableEntry s p.toNat j).ok s.params
  act : s.act = some (tableEntry s p.toNat i)
  cached : i = n → s.last = some (memByte s.rom
    ((tableEntry s p.toNat n).base.toNat + (tableEntry s p.toNat n).len.toNat - 1))

/-- The table and its buffers are read from the ROM alone. -/
theorem tableEntry_congr {s t : State} (h : t.rom = s.rom) (p i : Nat) : tableEntry t p i = tableEntry s p i := by
  simp only [tableEntry, h]

theorem entriesEvents_congr {s t : State} (h : t.rom = s.rom) (p i k : Nat) :
    entriesEvents t p i k = entriesEvents s p i k := by
  induction k generalizing i with
  | zero => rfl
  | succ k ih => simp only [entriesEvents, streamEvents, tableEntry_congr h, h, ih]

/-- The rest of the entry being played, from `offset` on. -/
theorem tickRun_entry {s : State} {p : Half} {n i m : Nat} (h : AtEntry s p n i) (hi : i ≤ n)
    (hm : s.offset.toNat + m = (tableEntry s p.toNat i).len.toNat) :
    ∃ t, TickRun s (byteEvents s.rom ((tableEntry s p.toNat i).base.toNat + s.offset.toNat) m) t ∧
      AtEntry t p n i ∧ t.rom = s.rom ∧ t.offset = (tableEntry s p.toNat i).len := by
  obtain ⟨-, -, hend⟩ := h.valid i hi
  obtain ⟨duty, log, hrun⟩ := tickRun_stream h.tickEn h.playing h.act hend hm
  exact ⟨_, hrun, { h with }, rfl, rfl⟩

/-- The Advance to entry `i + 1`: its first byte is output. -/
theorem advance_atEntry {s : State} {p : Half} {n i : Nat} (h : AtEntry s p n i) (hi : i < n)
    (ho : (tableEntry s p.toNat i).len.toNat ≤ s.offset.toNat) :
    ∃ t, exec .tick s = .next t ∧ t.log = s.log ++ [.duty (memByte s.rom (tableEntry s p.toNat (i + 1)).base.toNat)] ∧
      t.rom = s.rom ∧ t.offset = 1 ∧ AtEntry t p n (i + 1) := by
  obtain rfl := h.pos
  have hn : s.plPos.toNat + 1 < s.plLen.toNat := by rw [h.count]; omega
  have hok := h.valid (s.plPos.toNat + 1) hi
  have hreads := advanceReads_of_descRead h.base (descRead_next hn (h.count ▸ h.table))
  rw [checkBuf_of_ok hok] at hreads
  have hcase := TickCase.advance _ _ _ _ h.playing h.act ho ((hasNext_iff s).2 hn) hreads
  refine ⟨_, exec_tick_of_case hcase, rfl, rfl, rfl, ?_⟩
  exact { h with
    pos := toNat_halfOf_succ (b := s.plLen) (by omega)
    act := rfl
    cached := by rintro rfl; rfl }

/-- The rest of the entry being played, and the `k` entries after it up to the last: the bytes of each follow those of the
one before, since an Advance outputs the first byte of its entry. -/
theorem tickRun_entries {s : State} {p : Half} {n i k m : Nat} (h : AtEntry s p n i) (hk : i + k = n)
    (hm : s.offset.toNat + m = (tableEntry s p.toNat i).len.toNat) :
    ∃ t, TickRun s (byteEvents s.rom ((tableEntry s p.toNat i).base.toNat + s.offset.toNat) m ++
        entriesEvents s p.toNat (i + 1) k) t ∧
      AtEntry t p n n ∧ t.offset = (tableEntry s p.toNat n).len := by
  induction k generalizing s i m with
  | zero =>
    obtain rfl : i = n := hk
    obtain ⟨t, hstream, ht, -, ho⟩ := tickRun_entry h le_rfl hm
    rw [entriesEvents, List.append_nil]
    exact ⟨t, hstream, ht, ho⟩
  | succ k ih =>
    obtain ⟨t, hstream, ht, hrom, ho⟩ := tickRun_entry h (by omega) hm
    obtain ⟨u, htick, hlog, hurom, huo, hu⟩ :=
      advance_atEntry ht (by omega) (by rw [tableEntry_congr hrom, ho])
    obtain ⟨hlen, -, -⟩ := hu.valid (i + 1) (by omega)
    obtain ⟨m', hm'⟩ := Nat.exists_eq_add_of_le' hlen
    have hum : u.offset.toNat + m' = (tableEntry u p.toNat (i + 1)).len.toNat := by
      rw [hm', huo, Nat.add_comm]; rfl
    obtain ⟨w, hrest, hw, hwo⟩ := ih hu (by omega) hum
    have hus : u.rom = s.rom := hurom.trans hrom
    rw [tableEntry_congr hus] at hm' hwo
    rw [tableEntry_congr hus, entriesEvents_congr hus, hus, huo] at hrest
    rw [tableEntry_congr hrom, hrom] at hlog
    refine ⟨w, ?_, hw, hwo⟩
    rw [entriesEvents, streamEvents_eq, hm', byteEvents_succ]
    exact hstream.append (.cons ht.tickEn htick hlog hrest)

end Sys2Proof.Machine

open Sys2Proof Sys2Proof.Machine

/-- Settles O52: the buffer streams, and the ramp and the terminal tick follow. -/
theorem singleBufferSession : Obligations.SingleBufferSession := by
  intro s d v hl he hp ha hlast ho hd hn
  have hn := (hasNext_eq_false_iff s).2 hn
  obtain ⟨-, hlen, hend⟩ := hd
  obtain ⟨duty, log, hstream⟩ := tickRun_buffer he hp ha hend ho
  obtain ⟨t, hsilence, hplaying, htick, hpwm, -, -, hoff, hact, -⟩ :=
    tickRun_silence (s := s.afterOutput duty log d.len) he hp ha hlast hn hlen rfl
  have hrun := hstream.append hsilence
  obtain ⟨-, -, hsched⟩ := hrun.keeps
  refine ⟨t, ?_, ?_, hplaying, htick, hpwm, hoff, hact, hsched⟩
  · simpa [Nat.add_assoc] using hrun.runTurns_eq hl
  · simpa using hrun.log_eq

/-- Settles O53: the entries stream one after the other, and the ramp of the last and the terminal tick follow. -/
theorem playlistSession : Obligations.PlaylistSession := by
  rintro s p n _ _ hl he hp hb hcount hpos ht hvalid rfl rfl ha ho hlast
  have h : AtEntry s p n 0 :=
    ⟨he, hp, hb, hcount, by rw [hpos]; rfl, ht, hvalid, ha, fun hz => hlast hz.symm⟩
  obtain ⟨t, hstream, htn, hto⟩ := tickRun_entries h (Nat.zero_add n) (m := (tableEntry s p.toNat 0).len.toNat)
    (by simp [ho])
  have hn : hasNext t = false := (hasNext_eq_false_iff t).2 (by rw [htn.count, htn.pos]; omega)
  obtain ⟨-, hrom, -⟩ := hstream.keeps
  have hact := htn.act
  have hcached := htn.cached rfl
  rw [tableEntry_congr hrom] at hact hcached
  rw [hrom] at hcached
  obtain ⟨-, hlen, -⟩ := hvalid n le_rfl
  obtain ⟨u, hsilence, hplaying, htick, -, -, hpl, -, hact, hlast⟩ :=
    tickRun_silence htn.tickEn htn.playing hact hcached hn hlen hto
  rw [ho] at hstream
  have hrun : TickRun s (entriesEvents s p.toNat 0 (n + 1) ++ (rampEvents _ ++ [.stop])) u := hstream.append hsilence
  refine ⟨u, ?_, ?_, hplaying, htick, hpl, hact, hlast⟩
  · simpa [length_entriesEvents, Nat.add_assoc] using hrun.runTurns_eq hl
  · simpa using hrun.log_eq

/-- Settles O54: STOP puts `offset` at the buffer's end and clears the playlist, so the ramp follows. -/
theorem stopRampsToSilence : Obligations.StopRampsToSilence := by
  intro s t d v hl he hp ha hlast hlen h
  have hstop : t = { clearPlaylist s with offset := d.len } := by
    cases h
    exact stopOffset_some (clearPlaylist s) d ha
  subst hstop
  obtain ⟨u, hrun, hplaying, htick, -, hlevel, -⟩ :=
    tickRun_silence (s := { clearPlaylist s with offset := d.len }) he hp ha hlast rfl hlen rfl
  refine ⟨u, ?_, ?_, hplaying, htick, hlevel⟩
  · simpa using hrun.runTurns_eq hl
  · simpa using hrun.log_eq

end
